-- ==== Sys2Proof/Word.lean ====
section
/-! DEFINITION. The byte and the byte sequence (00_scope.md rule R6). -/

namespace Sys2Proof

/-- A byte: 8 bits, read as an unsigned integer 0 to 255 wherever a rule compares or adds (rule R6). -/
abbrev Byte := BitVec 8

/-- A byte sequence; element 0 is the first byte on the wire (rule R6). -/
abbrev Bytes := List Byte

end Sys2Proof
end

