-- ==== Sys2Proof/Machine/Values.lean ====
section
/-! DEFINITION. The types of the values that operations take and return (00_scope.md rule R8), and the reasons a
request packet names no operation. -/

namespace Sys2Proof

/-- The two frame kinds (rules R8, R52). -/
inductive Kind where
  | message
  | ack
  deriving DecidableEq, Repr

/-- The 4-byte command header at the start of a payload, in wire order (rule R54). -/
structure Header where
  gen      : Byte
  cmdId    : Byte
  dir      : Byte
  reserved : Byte
  deriving DecidableEq, Repr, Inhabited

/-- A decoded envelope (rules R8, R95): the checksum byte found is kept, the magic is not. As a value of rule R8's
type it has `len = payload.length` and `len ≤ 256`; `envelopeWf` of WellFormed.lean says so. -/
structure Envelope where
  kind     : Kind
  seq      : Byte
  len      : Nat
  checksum : Byte
  payload  : Bytes
  deriving DecidableEq, Repr

/-- The six reasons of a FrameError (rules R8, R191). -/
inductive FrameErr where
  | tooShort
  | badMagic
  | badKind
  | lengthOverCap
  | lengthMismatch
  | badChecksum
  deriving DecidableEq, Repr

/-- A status snapshot (rule R8). `holdRemaining` is 0 to 65535, read from two bytes. -/
structure Snapshot where
  seq           : Byte
  temperature   : Byte
  setpoint      : Byte
  heating       : Bool
  stage         : Byte
  mode          : Byte
  onBaseRaw     : Option Byte
  myTemp        : Option Byte
  babyFormula   : Option Bool
  holdRemaining : Option Nat
  errorCode     : Option Byte
  deriving DecidableEq, Repr

/-- An ack record (rule R8). -/
structure AckRecord where
  seq     : Byte
  header  : Header
  success : Bool
  rest    : Bytes
  deriving DecidableEq, Repr

/-- Which of the two status layouts a snapshot was read with (rule R8). -/
inductive StatusVariant where
  | compact
  | rich
  deriving DecidableEq, Repr

/-- The two completion statuses (rules R8, R59). -/
inductive CompletionStatus where
  | done
  | holdComplete
  deriving DecidableEq, Repr

/-- Why a recognised payload was not acceptable (rules R8, R193). -/
inductive RejectReason where
  | truncated
  | range
  | badValue
  deriving DecidableEq, Repr

/-- What DISPATCH and the parsers return (rule R8). -/
inductive Parsed where
  | status (variant : StatusVariant) (snap : Snapshot)
  | ackRecord (record : AckRecord)
  | completion (seq : Byte) (status : CompletionStatus)
  | unrecognized (kind : Kind) (seq : Byte) (payload : Bytes)
  | rejected (reason : RejectReason) (kind : Kind) (seq : Byte) (payload : Bytes)
  deriving DecidableEq, Repr

/-- What one DRAIN_STEP returns (rule R113). -/
inductive StepResult where
  | stop
  | cont
  | emit (env : Envelope)
  deriving DecidableEq, Repr

/-- The fields of a start-heating body (rule R173); `mode` and `holdSeconds` are 0 to 65535. -/
structure StartHeatBody where
  mode        : Nat
  holdEnable  : Bool
  holdSeconds : Nat
  deriving DecidableEq, Repr

/-- The fields of a delayed-start body (rule R177); the three numbers are 0 to 65535. -/
structure DelayedStartBody where
  delaySeconds : Nat
  mode         : Nat
  holdEnable   : Bool
  holdSeconds  : Nat
  deriving DecidableEq, Repr

/-- Why a request packet names no operation and no wire row. The packet layout is the model's own
(DESIGN CHOICE, log 1). -/
inductive DecodeErr where
  /-- The packet has no byte. -/
  | emptyRequest
  /-- OPSEL `10100` to `11111` select nothing (rule R68). -/
  | unknownOpsel
  /-- The first byte is neither an OPSEL, nor a view byte, nor the magic. -/
  | unknownSelector
  /-- The operand bytes do not have the layout of the operation's operands. -/
  | malformedOperands
  /-- The bytes match no wire row of the opcode table (rule R69): fewer than six, no magic, or no frame kind. -/
  | noWireRow
  deriving DecidableEq, Repr

end Sys2Proof
end

