-- ==== Sys2Proof/Config.lean ====
section
/-! DEFINITION. The open parameters of 00_scope.md rule R5. A parameter that has a default is a field of `Params`, which
an instance holds unchanged for its life (rule R15); the two OPEN ones, which have no default and which no operation
reads, are constants without a body. -/

namespace Sys2Proof

/-- The five payload offsets of the richer status (rule R5, D16). -/
structure RichLayout where
  myTemp        : Nat
  onBase        : Nat
  holdRemaining : Nat
  errorCode     : Nat
  babyFormula   : Nat
  deriving DecidableEq, Repr

/-- The header a row of the dispatch table asks for (rule R62): four fixed bytes, the parameter `HDR_STATUS_RICH`, or
any header that no earlier row took. -/
inductive HeaderPat where
  | exact (h : Header)
  | statusRich
  | any
  deriving DecidableEq, Repr

/-- The payload shape a row of the dispatch table selects (rule R62). -/
inductive Shape where
  | statusCompact
  | statusRich
  | completion
  | ackRecord
  | unrecognized
  deriving DecidableEq, Repr

/-- One row of `DISPATCH_TABLE` (rules R5, R62, R141; log 10). -/
structure DispatchRow where
  kind   : Kind
  header : HeaderPat
  shape  : Shape
  deriving DecidableEq, Repr

/-- The parameters of rule R5 that have a default. `richHeating` is the function `RICH_HEATING` from the stage byte to
Bool as plain data: bit `n` is its value at stage byte `n` (rule R148). -/
structure Params where
  hdrStatusRich : Header
  richLayout    : RichLayout
  richHeating   : BitVec 256
  drainAtomic   : Bool
  dispatchTable : List DispatchRow
  deriving DecidableEq, Repr

/-- The two readings of the on-base byte (rules R5, R149). -/
inductive Polarity where
  | nonzeroIsOn
  | zeroIsOn
  deriving DecidableEq, Repr, Inhabited

/-- `ON_BASE_POLARITY` of the real device: OPEN, no default (rule R5, D17; log 9). No proof can see its value. -/
opaque Config.onBasePolarity : Polarity

/-- `HDR_DELAYED_START` of the real device: OPEN, no default (rules R5, R176, D33; log 9). No proof can see its value. -/
opaque Config.hdrDelayedStart : Header

end Sys2Proof
end

