-- ==== Sys2Proof/Machine/Constants.lean ====
section
/-! DEFINITION. The hardwired constants of 00_scope.md rule R4 and the defaults of the open parameters of rule R5. -/

namespace Sys2Proof.Machine

/-- MAGIC (rule R4). -/
def magic : Byte := 0xA5#8

/-- KIND_MESSAGE and KIND_ACK (rules R4, R52). -/
def kindCode : Kind → Byte
  | .message => 0x22#8
  | .ack => 0x12#8

/-- ENV_LEN, in bytes (rule R4). -/
abbrev envLen : Nat := 6

/-- CK_SEED (rule R4). -/
def ckSeed : Byte := 0x00#8

/-- CK_PLACEHOLDER (rule R4, D3). -/
def ckPlaceholder : Byte := 0x01#8

/-- MAX_PAYLOAD, in bytes (rule R4, D4). -/
abbrev maxPayload : Nat := 256

/-- BUF_CAP, in bytes (rule R4). -/
abbrev bufCap : Nat := 512

/-- TX_CHUNK, in bytes (rule R4). -/
abbrev txChunk : Nat := 20

/-- HDR_LEN, in bytes (rule R4). -/
abbrev hdrLen : Nat := 4

/-- TEMP_MIN, in °F, inclusive (rules R4, R144). -/
abbrev tempMin : Nat := 40

/-- TEMP_MAX, in °F, inclusive (rules R4, R144). -/
abbrev tempMax : Nat := 230

/-- COMPACT_LEN: nominal, checked by no rule (rule R4, D15). -/
abbrev compactLen : Nat := 12

/-- RICH_LEN: nominal, checked by no rule (rule R4, 90_conflicts.md C2). -/
abbrev richLen : Nat := 29

/-- DONE (rules R4, R59). -/
def doneCode : Byte := 0x20#8

/-- HOLD_COMPLETE (rules R4, R59). -/
def holdCompleteCode : Byte := 0x21#8

/-- HDR_STATUS_REQ (rules R4, R55). -/
def hdrStatusReq : Header := ⟨0x01#8, 0x40#8, 0x40#8, 0x00#8⟩

/-- HDR_STATUS_COMPACT (rules R4, R55). -/
def hdrStatusCompact : Header := ⟨0x01#8, 0x41#8, 0x40#8, 0x00#8⟩

/-- HDR_START_HEAT (rules R4, R55). -/
def hdrStartHeat : Header := ⟨0x01#8, 0xF0#8, 0xA3#8, 0x00#8⟩

/-- HDR_SET_MY_TEMP (rules R4, R55). -/
def hdrSetMyTemp : Header := ⟨0x01#8, 0xF3#8, 0xA3#8, 0x00#8⟩

/-- HDR_COMPLETION (rules R4, R55). -/
def hdrCompletion : Header := ⟨0x01#8, 0xF7#8, 0xA3#8, 0x00#8⟩

/-- The default of `RICH_LAYOUT` (rules R5, R57, D16). -/
def defaultRichLayout : RichLayout :=
  { myTemp := 8, onBase := 14, holdRemaining := 15, errorCode := 27, babyFormula := 29 }

/-- The default of `RICH_HEATING`, `stage ≠ 0x00`: every bit but bit 0 (rules R5, R148, D18). -/
def defaultRichHeating : BitVec 256 := ~~~ 1#256

/-- The default of `DISPATCH_TABLE`: rows 2 to 6 of rule R62, tried top to bottom. Row 1, the payload without a header,
is the length test that DISPATCH makes first (rule R140). -/
def defaultDispatchTable : List DispatchRow :=
  [ { kind := .message, header := .exact hdrStatusCompact, shape := .statusCompact },
    { kind := .ack,     header := .statusRich,             shape := .statusRich },
    { kind := .message, header := .exact hdrCompletion,    shape := .completion },
    { kind := .ack,     header := .any,                    shape := .ackRecord },
    { kind := .message, header := .any,                    shape := .unrecognized } ]

/-- Every defaulted parameter of rule R5 at its default. -/
def defaultParams : Params :=
  { hdrStatusRich := ⟨0x01#8, 0x40#8, 0x40#8, 0x00#8⟩
    richLayout    := defaultRichLayout
    richHeating   := defaultRichHeating
    drainAtomic   := true
    dispatchTable := defaultDispatchTable }

end Sys2Proof.Machine
end

