-- ==== Sys2Proof/Machine/Operands.lean ====
section
/-! DEFINITION. Operand forms: byte order of every multi-byte field (20_memory.md rule R31), the command header
(30_encoding.md rule R54), the frame layout (rule R50) and reads at an offset of an operand (20_memory.md rule R45). -/

namespace Sys2Proof.Machine

/-- `le16(lo, hi)` of rule R6: a number from its low byte and its high byte, never wrapped (rule R85). -/
def le16 (lo hi : Byte) : Nat := lo.toNat + 256 * hi.toNat

/-- `be16(hi, lo)` of rule R6. -/
def be16 (hi lo : Byte) : Nat := 256 * hi.toNat + lo.toNat

/-- `v mod 256` as a byte (rule R85). -/
def loByte (v : Nat) : Byte := BitVec.ofNat 8 (v % 256)

/-- `v div 256` as a byte, for `v` of at most 65535 (rule R85). -/
def hiByte (v : Nat) : Byte := BitVec.ofNat 8 (v / 256)

/-- The two bytes of a little-endian field (rule R31). -/
def le16Bytes (v : Nat) : Bytes := [loByte v, hiByte v]

/-- The two bytes of a big-endian field (rule R31). -/
def be16Bytes (v : Nat) : Bytes := [hiByte v, loByte v]

/-- The frame kind a byte codes, if any (rule R52). -/
def kindOfCode (b : Byte) : Option Kind :=
  if b = kindCode .message then some .message
  else if b = kindCode .ack then some .ack
  else none

/-- The four bytes of a command header in wire order (rule R54). -/
def headerBytes (h : Header) : Bytes := [h.gen, h.cmdId, h.dir, h.reserved]

/-- The command header of a payload, absent when the payload has fewer than four bytes (rule R54). -/
def headerOf : Bytes → Option Header
  | g :: c :: d :: r :: _ => some ⟨g, c, d, r⟩
  | _ => none

/-- The bytes of a frame from its fields (rule R50). -/
def wireFrame (kind : Kind) (seq lenLo lenHi checksum : Byte) (payload : Bytes) : Bytes :=
  magic :: kindCode kind :: seq :: lenLo :: lenHi :: checksum :: payload

/-- The big-endian field at offset `o` of a payload, present only when both its bytes lie inside (rule R147). -/
def be16At (p : Bytes) (o : Nat) : Option Nat :=
  match p[o]?, p[o + 1]? with
  | some hi, some lo => some (be16 hi lo)
  | _, _ => none

/-- Whether an Envelope value belongs to the type of rule R8: `|payload| = len` and `len` 0 to 256. -/
def envelopeWf (e : Envelope) : Bool := e.len = e.payload.length && e.len ≤ maxPayload

/-- Whether `p` is a payload with the header `h`: what a parser called directly asks of its operand (rule R196). -/
def hasHeader (p : Bytes) (h : Header) : Bool := headerOf p = some h

/-- What PARSE_ACK called directly asks of its operand: a header, other than `HDR_STATUS_RICH` (rules R150, R196). -/
def ackParserTakes (rich : Header) (p : Bytes) : Bool :=
  match headerOf p with
  | some h => h ≠ rich
  | none => false

/-- The domain of SPLIT: the length of an encoded frame (rule R125). -/
def splitTakes (f : Bytes) : Bool := envLen ≤ f.length && f.length ≤ envLen + maxPayload

/-- Whether a frame of this kind and payload is one of the row F_UNRECOGNIZED: no header, or a MESSAGE whose header is
none of the five that the table's other rows name (rule R62 rows 1 and 6; the row's note in opcode_table.json). -/
def unrecognizedRow (kind : Kind) (payload : Bytes) : Bool :=
  match headerOf payload with
  | none => true
  | some h =>
    kind = .message && h ≠ hdrStatusCompact && h ≠ hdrCompletion && h ≠ hdrStatusReq && h ≠ hdrStartHeat
      && h ≠ hdrSetMyTemp

/-- The stated range of a two-byte integer operand, 0 to 65535 (rules R171, R175). -/
def inWordRange (v : Nat) : Bool := v ≤ 65535

/-- The stated range of a one-byte integer operand, 0 to 255 (rule R179). -/
def inByteRange (v : Nat) : Bool := v ≤ 255

end Sys2Proof.Machine
end

