-- ==== Sys2Proof/Machine/State.lean ====
section
/-! DEFINITION. The state of one instance of the block, the reasons a step can stop, and the state after reset. -/

namespace Sys2Proof.Machine

/-- The Frame Buffer's content (10_state.md rules R10, R11): the byte at address `i` is element `i`, the `i`-th oldest
byte held. Only the addresses below the length hold a value. Position is address, so two equal memories are equal data
(log 5). -/
abbrev Memory := Bytes

/-- The canonical form of the memory: at most 512 bytes (rules R10, R35). -/
def Memory.wf (m : Memory) : Bool := m.length ≤ bufCap

/-- The byte at an address; none at and beyond LEN (rule R11). -/
def Memory.read (m : Memory) (a : Nat) : Option Byte := m[a]?

/-- The memory written as (address, byte) pairs, addresses rising from 0. -/
def Memory.cells (m : Memory) : List Host.Cell := (List.range m.length).zip m

/-- Why the block stops with a fault. The spec has no behaviour that stops the block (93_implementation_defined.md,
end of part 1), and no reachable step raises this. -/
inductive Fault where
  /-- A read of BUF at or beyond LEN, where no value exists (00_scope.md rule R7, 10_state.md rule R11). Raised by
  `memByte` and `memRead`; every use stands behind a length test (20_memory.md rule R45), so no operation reaches it.
  Safe. -/
  | readBeyondLen (index count : Nat)
  deriving DecidableEq, Repr

/-- Why a request has no meaning: no result and no state change (60_exceptions.md rule R196). All of them are safe. -/
inductive Refusal where
  /-- An operation whose meaning is not written; raised in no arm. Safe. -/
  | notModelled (mnemonic : String)
  /-- ENCODE of a payload of more than 256 bytes (rule R91). Safe. -/
  | payloadTooLong
  /-- APPEND of a chunk of more than 512 bytes (rule R112). Safe. -/
  | chunkTooLong
  /-- FRAME_CK of fewer than 6 bytes (rule R82). Safe. -/
  | frameTooShort
  /-- SPLIT of a string whose length is that of no encoded frame, 6 to 262 bytes (rules R125, R196; log 8). Safe. -/
  | notAnEncodedFrame
  /-- DISPATCH of a value that is no Envelope of rule R8: `len` is not the payload's length, or is over 256
  (rules R140, R196; log 8). Safe. -/
  | notAnEnvelope
  /-- A PARSE operation called directly on a payload that is not the one it is for (rule R196). Safe. -/
  | notThisParsersPayload
  /-- An ENC operation with an integer operand outside its stated range (rule R196). Safe. -/
  | operandOutOfRange
  /-- DRAIN or DRAIN_STEP while a DRAIN is in progress, which takes `DRAIN_ATOMIC = false`: two concurrent drainers have
  no behaviour (rule R232; log 4). Safe. -/
  | drainInProgress
  /-- The next request packet names no operation and no wire row (rules R68, R69; log 1). Raised by the fetch. Safe. -/
  | badRequest (why : DecodeErr)
  deriving DecidableEq, Repr

/-- The fields of a host-to-device command found in a frame (rule R61; log 6). -/
inductive CommandFields where
  /-- The status request has none. -/
  | statusReq
  /-- What DEC_START_HEAT_BODY reads from the body (rule R173). -/
  | startHeat (body : StartHeatBody)
  /-- The temperature byte (rules R61, R179). -/
  | setMyTemp (t : Byte)
  /-- A field lies beyond the body. -/
  | truncated
  deriving DecidableEq, Repr

/-- The value an operation returned (10_state.md rule R12: results leave as the return value; log 2). -/
inductive Response where
  /-- No value: CLEAR, APPEND, and a DRAIN that has not returned yet. -/
  | noResult
  /-- CKSUM, FRAME_CK. -/
  | byte (b : Byte)
  /-- ENCODE and the ENC operations. -/
  | bytes (s : Bytes)
  /-- DECODE, success. -/
  | envelope (e : Envelope)
  /-- DECODE, failure: a value, never a fault (rule R192). -/
  | frameError (e : FrameErr)
  /-- DRAIN_STEP. -/
  | step (r : StepResult)
  /-- DRAIN. -/
  | envelopes (es : List Envelope)
  /-- SPLIT. -/
  | chunks (cs : List Bytes)
  /-- DISPATCH and the PARSE operations. -/
  | parsed (p : Parsed)
  /-- DEC_START_HEAT_BODY, success. -/
  | startHeatBody (b : StartHeatBody)
  /-- DEC_DELAYED_START_BODY, success. -/
  | delayedStartBody (b : DelayedStartBody)
  /-- The bare value TRUNCATED of the two DEC operations (rules R173, R177). -/
  | truncated
  /-- A command row: what DISPATCH gives, and the command's fields (log 6). -/
  | command (p : Parsed) (f : CommandFields)
  deriving DecidableEq, Repr

/-- One instance of the block and its request port. -/
structure State where
  /-- BUF; LEN is its length (rules R10, R11). -/
  buf : Memory
  /-- The parameters of the instance, fixed for its life (rules R5, R15; log 3). -/
  params : Params
  /-- The requests not yet performed, oldest first, one packet each: the total order of rule R37 (log 1). -/
  port : List Bytes
  /-- The value the last operation returned (log 2). -/
  response : Response
  /-- `out` of rule R114's loop while a DRAIN begun with `DRAIN_ATOMIC = false` has not returned (rule R38; log 4). -/
  draining : Option (List Envelope)
  /-- The environment's choices between the steps of such a DRAIN: true, the next request falls here (rule R38;
  log 4). -/
  sched : List Bool
  deriving DecidableEq, Repr

/-- The state right after reset: `BUF = []`, `LEN = 0` (rules R19, R220). The parameters are at their defaults (rule R5),
and nothing has been requested, returned or begun (logs 1 to 4). -/
def State.reset : State :=
  { buf := [], params := defaultParams, port := [], response := .noResult, draining := none, sched := [] }

end Sys2Proof.Machine
end

