-- ==== Sys2Proof/Machine/Ops.lean ====
section
/-! DEFINITION. The named operations over BUF and the ways an operation ends. BUF has three writers only: append at the
end, consume from the front, empty (00_scope.md rule R7). -/

namespace Sys2Proof.Machine

/-- What an operation answers. -/
abbrev Result := Host.Outcome State Fault Refusal

/-- The state with a returned value. -/
def State.respond (s : State) (r : Response) : State := { s with response := r }

/-- The state with another buffer content and a returned value. -/
def State.respondWith (s : State) (m : Memory) (r : Response) : State := { s with buf := m, response := r }

/-- A pure operation ends: it returns a value and touches nothing else (rules R10, R34). -/
def complete (s : State) (r : Response) : Result := .next (s.respond r)

/-- A pure operation that has a meaning only inside its domain: outside it is refused (rule R196). -/
def completeIf (inDomain : Bool) (why : Refusal) (s : State) (r : Response) : Result :=
  if inDomain then complete s r else .refused why

/-- `MemRead(a, 1)` as a byte (rule R7). -/
def memByte (m : Memory) (a : Nat) : Except Fault Byte :=
  match m[a]? with
  | some b => .ok b
  | none => .error (.readBeyondLen a 1)

/-- `MemRead(a, n)`: `BUF[a..a+n)`, defined only when `a + n ≤ LEN` (rule R7). -/
def memRead (m : Memory) (a n : Nat) : Except Fault Bytes :=
  if a + n ≤ m.length then .ok ((m.drop a).take n) else .error (.readBeyondLen a n)

/-- Consume `k` bytes from the front: `BUF <- BUF[k..]` (rule R7). -/
def consume (k : Nat) (m : Memory) : Memory := m.drop k

/-- Empty the buffer: `BUF <- []` (rules R7, R110). -/
def emptied : Memory := []

/-- Append a chunk, the whole buffer discarded first when the sum would exceed the cap: strictly greater than 512
(rules R111, R202). -/
def appendChunk (m : Memory) (chunk : Bytes) : Memory :=
  if m.length + chunk.length > bufCap then emptied ++ chunk else m ++ chunk

/-- The recovery that stands for taking an exception (rules R118, R200): the head magic byte is discarded, nothing is
saved, and every byte after it stays. There is nothing to return from: the next step scans the shortened buffer
(rule R201). -/
def slide (m : Memory) : Memory := consume 1 m

/-- A new connection to the same instance (rule R220): the buffer is empty, no DRAIN is in progress, nothing has been
returned; the parameters are not affected. The requests and the environment's choices are the host's and stay
(log 11). -/
def newConnection (s : State) : State :=
  { s with buf := emptied, response := .noResult, draining := none }

end Sys2Proof.Machine
end

