-- ==== Sys2Proof/Machine/Checksum.lean ====
section
/-! DEFINITION. The checksum fold: CKSUM and FRAME_CK (40_checksum.md). -/

namespace Sys2Proof.Machine

/-- The fold of rule R80: `acc <- (acc - s[i]) mod 256` from the seed, in order; subtraction of bytes is modulo 256. -/
def cksum (s : Bytes) : Byte := s.foldl (fun acc b => acc - b) ckSeed

/-- The fold over a whole frame with byte 5 replaced by the placeholder (rule R82). -/
def frameCk (f : Bytes) : Byte := cksum (f.set 5 ckPlaceholder)

/-- CKSUM(s), rule R80: total. -/
def execCksum (b : Bytes) (s : State) : Result := complete s (.byte (cksum b))

/-- FRAME_CK(f), rule R82: refused when `f` has fewer than 6 bytes. -/
def execFrameCk (f : Bytes) (s : State) : Result :=
  completeIf (envLen ≤ f.length) .frameTooShort s (.byte (frameCk f))

end Sys2Proof.Machine
end

