-- ==== Sys2Proof/Machine/Flags.lean ====
section
/-! DEFINITION. Flag bytes. The block has no flag register and no condition codes (10_state.md rule R14); what a flag is
here is a byte of a payload read as a Bool, or a Bool written as a byte. -/

namespace Sys2Proof.Machine

/-- A flag byte read as a Bool: nonzero is true (rules R145, R173). -/
def flagOfByte (b : Byte) : Bool := b ≠ 0x00#8

/-- `hold_enable` as it is written: `0x01` for true, `0x00` for false (rule R172, D23). -/
def byteOfFlag (f : Bool) : Byte := if f then 0x01#8 else 0x00#8

/-- The success flag of an ack from the bytes after its header: true when there is none or the first is zero
(rules R150, R151). -/
def ackSuccess : Bytes → Bool
  | [] => true
  | b :: _ => b = 0x00#8

/-- `RICH_HEATING` at a stage byte (rules R5, R148). -/
def richHeats (p : Params) (stage : Byte) : Bool := p.richHeating.getLsbD stage.toNat

/-- Whether a reading lies in the closed range [40, 230] °F, compared as an unsigned byte (rules R142, R144, R85). -/
def inTempRange (b : Byte) : Bool := tempMin ≤ b.toNat && b.toNat ≤ tempMax

end Sys2Proof.Machine
end

