-- ==== Sys2Proof/Machine/Command.lean ====
section
/-! DEFINITION. The command payload bodies: ENC_STATUS_REQ, ENC_START_HEAT, DEC_START_HEAT_BODY, ENC_DELAYED_START_BODY,
DEC_DELAYED_START_BODY, ENC_SET_MY_TEMP (44_command_payloads.md). -/

namespace Sys2Proof.Machine

/-- The start-heating body: mode little-endian, hold_enable, hold_seconds big-endian (rules R61, R171). -/
def startHeatBodyBytes (mode : Nat) (holdEnable : Bool) (holdSeconds : Nat) : Bytes :=
  le16Bytes mode ++ [byteOfFlag holdEnable] ++ be16Bytes holdSeconds

/-- The delayed-start body: delay_seconds big-endian, then the start-heating body (rules R61, R175). -/
def delayedStartBodyBytes (delaySeconds mode : Nat) (holdEnable : Bool) (holdSeconds : Nat) : Bytes :=
  be16Bytes delaySeconds ++ startHeatBodyBytes mode holdEnable holdSeconds

/-- A delayed-start payload, the header given as an argument because the source does not give it (rule R176). -/
def delayedStartPayload (header : Header) (body : Bytes) : Bytes := headerBytes header ++ body

/-- DEC_START_HEAT_BODY, rule R173: none is the bare value TRUNCATED. -/
def readStartHeatBody : Bytes → Option StartHeatBody
  | m0 :: m1 :: e :: h0 :: h1 :: _ =>
    some { mode := le16 m0 m1, holdEnable := flagOfByte e, holdSeconds := be16 h0 h1 }
  | _ => none

/-- DEC_DELAYED_START_BODY, rule R177: none is the bare value TRUNCATED. -/
def readDelayedStartBody : Bytes → Option DelayedStartBody
  | d0 :: d1 :: m0 :: m1 :: e :: h0 :: h1 :: _ =>
    some { delaySeconds := be16 d0 d1, mode := le16 m0 m1, holdEnable := flagOfByte e, holdSeconds := be16 h0 h1 }
  | _ => none

/-- ENC_STATUS_REQ, rule R170. -/
def execEncStatusReq (s : State) : Result := complete s (.bytes (headerBytes hdrStatusReq))

/-- ENC_START_HEAT(mode, hold_enable, hold_seconds), rule R171. -/
def execEncStartHeat (mode : Nat) (holdEnable : Bool) (holdSeconds : Nat) (s : State) : Result :=
  completeIf (inWordRange mode && inWordRange holdSeconds) .operandOutOfRange s
    (.bytes (headerBytes hdrStartHeat ++ startHeatBodyBytes mode holdEnable holdSeconds))

/-- DEC_START_HEAT_BODY(b), rule R173. -/
def execDecStartHeatBody (b : Bytes) (s : State) : Result :=
  complete s (match readStartHeatBody b with
    | some fields => .startHeatBody fields
    | none => .truncated)

/-- ENC_DELAYED_START_BODY(delay_seconds, mode, hold_enable, hold_seconds), rule R175: the body only. -/
def execEncDelayedStartBody (delaySeconds mode : Nat) (holdEnable : Bool) (holdSeconds : Nat) (s : State) : Result :=
  completeIf (inWordRange delaySeconds && inWordRange mode && inWordRange holdSeconds) .operandOutOfRange s
    (.bytes (delayedStartBodyBytes delaySeconds mode holdEnable holdSeconds))

/-- DEC_DELAYED_START_BODY(b), rule R177. -/
def execDecDelayedStartBody (b : Bytes) (s : State) : Result :=
  complete s (match readDelayedStartBody b with
    | some fields => .delayedStartBody fields
    | none => .truncated)

/-- ENC_SET_MY_TEMP(t), rule R179: `t` is not held to the range of status readings. -/
def execEncSetMyTemp (t : Nat) (s : State) : Result :=
  completeIf (inByteRange t) .operandOutOfRange s (.bytes (headerBytes hdrSetMyTemp ++ [loByte t]))

end Sys2Proof.Machine
end

