-- ==== Sys2Proof/Machine/Envelope.lean ====
section
/-! DEFINITION. The envelope codec: ENCODE and DECODE (41_envelope.md). -/

namespace Sys2Proof.Machine

/-- The frame of rule R90's pseudocode: the envelope with the placeholder, then the payload, then byte 5 patched with the
fold over all of it. -/
def encodeFrame (kind : Kind) (seq : Byte) (payload : Bytes) : Bytes :=
  let f := wireFrame kind seq (loByte payload.length) (hiByte payload.length) ckPlaceholder payload
  f.set 5 (cksum f)

/-- The checks of rule R92 in their order; the first that fails gives the reason (rules R94, R197). -/
def decodeFrame : Bytes → Except FrameErr Envelope
  | m :: k :: seq :: lenLo :: lenHi :: checksum :: payload =>
    if m ≠ magic then .error .badMagic
    else
      match kindOfCode k with
      | none => .error .badKind
      | some kind =>
        if le16 lenLo lenHi > maxPayload then .error .lengthOverCap
        else if envLen + payload.length ≠ envLen + le16 lenLo lenHi then .error .lengthMismatch
        else if frameCk (m :: k :: seq :: lenLo :: lenHi :: checksum :: payload) ≠ checksum then .error .badChecksum
        else .ok { kind, seq, len := le16 lenLo lenHi, checksum, payload }
  | _ => .error .tooShort

/-- What DECODE returns: the Envelope or the FrameError, both as values (rule R192). -/
def decodeResponse (f : Bytes) : Response :=
  match decodeFrame f with
  | .ok e => .envelope e
  | .error r => .frameError r

/-- ENCODE(kind, seq, payload), rules R90, R91. -/
def execEncode (kind : Kind) (seq : Byte) (payload : Bytes) (s : State) : Result :=
  completeIf (payload.length ≤ maxPayload) .payloadTooLong s (.bytes (encodeFrame kind seq payload))

/-- DECODE(s), rule R92. -/
def execDecode (f : Bytes) (s : State) : Result := complete s (decodeResponse f)

end Sys2Proof.Machine
end

