-- ==== Sys2Proof/Machine/Payload.lean ====
section
/-! DEFINITION. The payload dispatcher and its parsers: DISPATCH, PARSE_STATUS_COMPACT, PARSE_STATUS_RICH, PARSE_ACK,
PARSE_COMPLETION (43_payload_dispatch.md). -/

namespace Sys2Proof.Machine

/-- PARSE_STATUS_COMPACT, rule R143: TRUNCATED below 9 bytes, then RANGE (rule R142), then the snapshot without the
optional fields. -/
def parseStatusCompact (seq : Byte) (p : Bytes) : Parsed :=
  match p with
  | _ :: _ :: _ :: _ :: stage :: mode :: setpoint :: temperature :: heatingFlag :: _ =>
    if inTempRange setpoint && inTempRange temperature then
      .status .compact
        { seq, temperature, setpoint, heating := flagOfByte heatingFlag, stage, mode, onBaseRaw := none,
          myTemp := none, babyFormula := none, holdRemaining := none, errorCode := none }
    else .rejected .range .message seq p
  | _ => .rejected .truncated .message seq p

/-- PARSE_STATUS_RICH, rule R146: TRUNCATED below 8 bytes, then RANGE, then the snapshot; each optional field is present
exactly when all its bytes lie inside the payload (rule R147). -/
def parseStatusRich (params : Params) (seq : Byte) (p : Bytes) : Parsed :=
  match p with
  | _ :: _ :: _ :: _ :: stage :: mode :: setpoint :: temperature :: _ =>
    if inTempRange setpoint && inTempRange temperature then
      .status .rich
        { seq, temperature, setpoint, heating := richHeats params stage, stage, mode
          onBaseRaw     := p[params.richLayout.onBase]?
          myTemp        := p[params.richLayout.myTemp]?
          babyFormula   := p[params.richLayout.babyFormula]?.map flagOfByte
          holdRemaining := be16At p params.richLayout.holdRemaining
          errorCode     := p[params.richLayout.errorCode]? }
    else .rejected .range .ack seq p
  | _ => .rejected .truncated .ack seq p

/-- PARSE_ACK, rule R150. Without a header, which no caller offers, it is UNRECOGNIZED as DISPATCH has it (rule R140). -/
def parseAck (seq : Byte) (p : Bytes) : Parsed :=
  match headerOf p with
  | some header =>
    .ackRecord { seq, header, success := ackSuccess (p.drop hdrLen), rest := p.drop hdrLen }
  | none => .unrecognized .ack seq p

/-- PARSE_COMPLETION, rule R152. -/
def parseCompletion (seq : Byte) (p : Bytes) : Parsed :=
  match p[4]? with
  | none => .rejected .truncated .message seq p
  | some b =>
    if b = doneCode then .completion seq .done
    else if b = holdCompleteCode then .completion seq .holdComplete
    else .rejected .badValue .message seq p

/-- Whether a row's header accepts a payload's header (rules R62, R141): all four bytes count. -/
def headerMatches (params : Params) (pat : HeaderPat) (h : Header) : Bool :=
  match pat with
  | .exact k => h = k
  | .statusRich => h = params.hdrStatusRich
  | .any => true

/-- The shape a key (kind, header) selects: the first row that matches, unrecognized when none does (rules R62, R140). -/
def shapeOf (params : Params) (kind : Kind) (h : Header) : Shape :=
  match params.dispatchTable.find? (fun r => r.kind = kind && headerMatches params r.header h) with
  | some r => r.shape
  | none => .unrecognized

/-- A payload read in a shape (rules R140, R143, R146, R150, R152, R153). -/
def parseShape (params : Params) (shape : Shape) (kind : Kind) (seq : Byte) (p : Bytes) : Parsed :=
  match shape with
  | .statusCompact => parseStatusCompact seq p
  | .statusRich => parseStatusRich params seq p
  | .completion => parseCompletion seq p
  | .ackRecord => parseAck seq p
  | .unrecognized => .unrecognized kind seq p

/-- DISPATCH, rule R140: a payload without a header is unrecognized; otherwise the dispatch table decides. -/
def dispatchPayload (params : Params) (env : Envelope) : Parsed :=
  match headerOf env.payload with
  | none => .unrecognized env.kind env.seq env.payload
  | some h => parseShape params (shapeOf params env.kind h) env.kind env.seq env.payload

/-- DISPATCH(env), rule R140: total on the Envelopes of rule R8 (rule R155). -/
def execDispatch (env : Envelope) (s : State) : Result :=
  completeIf (envelopeWf env) .notAnEnvelope s (.parsed (dispatchPayload s.params env))

/-- PARSE_STATUS_COMPACT(s, p) called directly, rules R143, R196. -/
def execParseStatusCompact (seq : Byte) (p : Bytes) (s : State) : Result :=
  completeIf (hasHeader p hdrStatusCompact) .notThisParsersPayload s (.parsed (parseStatusCompact seq p))

/-- PARSE_STATUS_RICH(s, p) called directly, rules R146, R196. -/
def execParseStatusRich (seq : Byte) (p : Bytes) (s : State) : Result :=
  completeIf (hasHeader p s.params.hdrStatusRich) .notThisParsersPayload s
    (.parsed (parseStatusRich s.params seq p))

/-- PARSE_ACK(s, p) called directly, rules R150, R196. -/
def execParseAck (seq : Byte) (p : Bytes) (s : State) : Result :=
  completeIf (ackParserTakes s.params.hdrStatusRich p) .notThisParsersPayload s (.parsed (parseAck seq p))

/-- PARSE_COMPLETION(s, p) called directly, rules R152, R196. -/
def execParseCompletion (seq : Byte) (p : Bytes) (s : State) : Result :=
  completeIf (hasHeader p hdrCompletion) .notThisParsersPayload s (.parsed (parseCompletion seq p))

end Sys2Proof.Machine
end

