-- ==== Sys2Proof/Machine/Reassembler.lean ====
section
/-! DEFINITION. The frame reassembler, CLEAR, APPEND, DRAIN_STEP and DRAIN, and the transmit splitter SPLIT
(42_reassembler.md). -/

namespace Sys2Proof.Machine

/-- Step (a) of rule R113: discard every byte before the first magic byte, everything when there is none (rule R116). -/
def scan (m : Memory) : Memory := m.dropWhile (fun b => b ≠ magic)

/-- One DRAIN_STEP, rule R113. The frame extent `6 + L` is not wrapped (rule R85); every FrameError slides alike
(rule R117); the declared length is not held to the cap before step (d) (rule R119). -/
def drainStep (m₀ : Memory) : Except Fault (StepResult × Memory) :=
  let m := scan m₀
  if m.length < envLen then .ok (.stop, m)
  else
    match memByte m 3, memByte m 4 with
    | .ok lenLo, .ok lenHi =>
      let n := envLen + le16 lenLo lenHi
      if n > m.length then .ok (.stop, m)
      else
        match memRead m 0 n with
        | .ok window =>
          match decodeFrame window with
          | .error _ => .ok (.cont, slide m)
          | .ok e => .ok (.emit e, consume n m)
        | .error f => .error f
    | .error f, _ => .error f
    | _, .error f => .error f

/-- The loop of rule R114 with `n` steps left. -/
def drainLoop : Nat → List Envelope → Memory → Except Fault (List Envelope × Memory)
  | 0, out, m => .ok (out, m)
  | n + 1, out, m =>
    match drainStep m with
    | .error f => .error f
    | .ok (.stop, m') => .ok (out, m')
    | .ok (.cont, m') => drainLoop n out m'
    | .ok (.emit e, m') => drainLoop n (out ++ [e]) m'

/-- DRAIN as one action, rule R114. `LEN + 1` steps always reach STOP (rule R115). -/
def drainAll (m : Memory) : Except Fault (List Envelope × Memory) := drainLoop (m.length + 1) [] m

/-- One step of a DRAIN that has emitted `out` so far, with `DRAIN_ATOMIC = false` (rule R38): at STOP the DRAIN returns,
otherwise it stays in progress. -/
def drainAdvance (out : List Envelope) (s : State) : Result :=
  match drainStep s.buf with
  | .error f => .fault f
  | .ok (.stop, m) => .next { s with buf := m, draining := none, response := .envelopes out }
  | .ok (.cont, m) => .next { s with buf := m, draining := some out, response := .noResult }
  | .ok (.emit e, m) => .next { s with buf := m, draining := some (out ++ [e]), response := .noResult }

/-- The chunks of rule R125: `⌈|f| / 20⌉` consecutive slices of 20 bytes, the last one shorter. -/
def splitFrame (f : Bytes) : List Bytes :=
  (List.range ((f.length + (txChunk - 1)) / txChunk)).map fun j => (f.drop (txChunk * j)).take txChunk

/-- CLEAR, rule R110. -/
def execClear (s : State) : Result := .next (s.respondWith emptied .noResult)

/-- APPEND(chunk), rules R111, R112. -/
def execAppend (chunk : Bytes) (s : State) : Result :=
  if chunk.length ≤ bufCap then .next (s.respondWith (appendChunk s.buf chunk) .noResult)
  else .refused .chunkTooLong

/-- DRAIN_STEP, rule R113. Refused while another DRAIN is in progress (rule R232). -/
def execDrainStep (s : State) : Result :=
  match s.draining with
  | some _ => .refused .drainInProgress
  | none =>
    match drainStep s.buf with
    | .error f => .fault f
    | .ok (r, m) => .next (s.respondWith m (.step r))

/-- DRAIN, rule R114: all of it with `DRAIN_ATOMIC = true`, its first step otherwise (rule R38). Refused while another
DRAIN is in progress (rule R232). -/
def execDrain (s : State) : Result :=
  match s.draining with
  | some _ => .refused .drainInProgress
  | none =>
    if s.params.drainAtomic then
      match drainAll s.buf with
      | .error f => .fault f
      | .ok (out, m) => .next (s.respondWith m (.envelopes out))
    else drainAdvance [] s

/-- SPLIT(f), rule R125. -/
def execSplit (f : Bytes) (s : State) : Result :=
  completeIf (splitTakes f) .notAnEncodedFrame s (.chunks (splitFrame f))

end Sys2Proof.Machine
end

