-- ==== Sys2Proof/Machine/Wire.lean ====
section
/-! DEFINITION. The wire rows of opcode_table.json (30_encoding.md rules R50, R61, R62, R69). A row's request presents
one frame to the block: an ENV_ row to DECODE; a payload-shape row to DECODE and, when the frame is valid, to DISPATCH;
a command row to DECODE, DISPATCH and the reading of the command's fields (log 6). No row touches BUF. -/

namespace Sys2Proof.Machine

/-- What DECODE followed by DISPATCH returns for a frame: the frame must pass DECODE, and the parser still decides
(rule R69). -/
def receiveResponse (params : Params) (f : Bytes) : Response :=
  match decodeFrame f with
  | .error r => .frameError r
  | .ok e => .parsed (dispatchPayload params e)

/-- The same for a command row, with the command's fields read from the body (rules R61, R62). -/
def commandResponse (params : Params) (f : Bytes) (fields : CommandFields) : Response :=
  match decodeFrame f with
  | .error r => .frameError r
  | .ok e => .command (dispatchPayload params e) fields

/-- The fields of a start-heating command (rules R61, R173). -/
def startHeatFields (body : Bytes) : CommandFields :=
  match readStartHeatBody body with
  | some b => .startHeat b
  | none => .truncated

/-- The field of a set-custom-temperature command (rules R61, R179). -/
def setMyTempFields : Bytes → CommandFields
  | t :: _ => .setMyTemp t
  | [] => .truncated

/-- ENV_MESSAGE, rules R50, R92. -/
def execEnvMessage (seq lenLo lenHi checksum : Byte) (payload : Bytes) (s : State) : Result :=
  complete s (decodeResponse (wireFrame .message seq lenLo lenHi checksum payload))

/-- ENV_ACK, rules R50, R92. -/
def execEnvAck (seq lenLo lenHi checksum : Byte) (payload : Bytes) (s : State) : Result :=
  complete s (decodeResponse (wireFrame .ack seq lenLo lenHi checksum payload))

/-- F_STATUS_COMPACT, rules R62 row 2, R143. -/
def execFStatusCompact (seq lenLo lenHi checksum : Byte) (body : Bytes) (s : State) : Result :=
  complete s (receiveResponse s.params
    (wireFrame .message seq lenLo lenHi checksum (headerBytes hdrStatusCompact ++ body)))

/-- F_STATUS_RICH, rules R62 row 3, R146. -/
def execFStatusRich (seq lenLo lenHi checksum : Byte) (body : Bytes) (s : State) : Result :=
  complete s (receiveResponse s.params
    (wireFrame .ack seq lenLo lenHi checksum (headerBytes s.params.hdrStatusRich ++ body)))

/-- F_COMPLETION, rules R62 row 4, R152. -/
def execFCompletion (seq lenLo lenHi checksum : Byte) (body : Bytes) (s : State) : Result :=
  complete s (receiveResponse s.params
    (wireFrame .message seq lenLo lenHi checksum (headerBytes hdrCompletion ++ body)))

/-- F_ACK_RECORD, rules R62 row 5, R150. -/
def execFAckRecord (seq lenLo lenHi checksum : Byte) (header : Header) (body : Bytes) (s : State) : Result :=
  complete s (receiveResponse s.params
    (wireFrame .ack seq lenLo lenHi checksum (headerBytes header ++ body)))

/-- F_STATUS_REQ, rules R61, R62 row 6, R170. -/
def execFStatusReq (seq lenLo lenHi checksum : Byte) (body : Bytes) (s : State) : Result :=
  complete s (commandResponse s.params
    (wireFrame .message seq lenLo lenHi checksum (headerBytes hdrStatusReq ++ body)) .statusReq)

/-- F_START_HEAT, rules R61, R62 row 6, R173. -/
def execFStartHeat (seq lenLo lenHi checksum : Byte) (body : Bytes) (s : State) : Result :=
  complete s (commandResponse s.params
    (wireFrame .message seq lenLo lenHi checksum (headerBytes hdrStartHeat ++ body)) (startHeatFields body))

/-- F_SET_MY_TEMP, rules R61, R62 row 6, R179. -/
def execFSetMyTemp (seq lenLo lenHi checksum : Byte) (body : Bytes) (s : State) : Result :=
  complete s (commandResponse s.params
    (wireFrame .message seq lenLo lenHi checksum (headerBytes hdrSetMyTemp ++ body)) (setMyTempFields body))

/-- F_UNRECOGNIZED, rules R62 rows 1 and 6, R153. -/
def execFUnrecognized (kind : Kind) (seq lenLo lenHi checksum : Byte) (payload : Bytes) (s : State) : Result :=
  complete s (receiveResponse s.params (wireFrame kind seq lenLo lenHi checksum payload))

end Sys2Proof.Machine
end

