-- ==== Sys2Proof/Syntax.lean ====
section
/-! DEFINITION. The requests the block can be given: one constructor per row of spec/opcode_table.json, in the table's
order. The first twenty are the operations of 00_scope.md rule R3 with their operands; the last ten are the wire rows of
30_encoding.md rule R69, each with the bytes of the frame that the row leaves open. -/

namespace Sys2Proof

/-- One constructor per row of the opcode table. Integer operands are unbounded here; WellFormed.lean and the meanings
hold them to their stated ranges (rule R196). -/
inductive Instr where
  /-- CKSUM, rule R80. -/
  | cksum (s : Bytes)
  /-- FRAME_CK, rule R82. -/
  | frameCk (f : Bytes)
  /-- ENCODE, rule R90. -/
  | encode (kind : Kind) (seq : Byte) (payload : Bytes)
  /-- DECODE, rule R92. -/
  | decode (s : Bytes)
  /-- CLEAR, rule R110. -/
  | clear
  /-- APPEND, rule R111. -/
  | append (chunk : Bytes)
  /-- DRAIN_STEP, rule R113. -/
  | drainStep
  /-- DRAIN, rule R114. -/
  | drain
  /-- SPLIT, rule R125. -/
  | split (f : Bytes)
  /-- DISPATCH, rule R140. -/
  | dispatch (env : Envelope)
  /-- PARSE_STATUS_COMPACT, rule R143. -/
  | parseStatusCompact (seq : Byte) (p : Bytes)
  /-- PARSE_STATUS_RICH, rule R146. -/
  | parseStatusRich (seq : Byte) (p : Bytes)
  /-- PARSE_ACK, rule R150. -/
  | parseAck (seq : Byte) (p : Bytes)
  /-- PARSE_COMPLETION, rule R152. -/
  | parseCompletion (seq : Byte) (p : Bytes)
  /-- ENC_STATUS_REQ, rule R170. -/
  | encStatusReq
  /-- ENC_START_HEAT, rule R171. -/
  | encStartHeat (mode : Nat) (holdEnable : Bool) (holdSeconds : Nat)
  /-- DEC_START_HEAT_BODY, rule R173. -/
  | decStartHeatBody (b : Bytes)
  /-- ENC_DELAYED_START_BODY, rule R175. -/
  | encDelayedStartBody (delaySeconds mode : Nat) (holdEnable : Bool) (holdSeconds : Nat)
  /-- DEC_DELAYED_START_BODY, rule R177. -/
  | decDelayedStartBody (b : Bytes)
  /-- ENC_SET_MY_TEMP, rule R179. -/
  | encSetMyTemp (t : Nat)
  /-- ENV_MESSAGE, rule R50: any MESSAGE-kind frame. -/
  | envMessage (seq lenLo lenHi checksum : Byte) (payload : Bytes)
  /-- ENV_ACK, rule R50: any ACK-kind frame. -/
  | envAck (seq lenLo lenHi checksum : Byte) (payload : Bytes)
  /-- F_STATUS_COMPACT, rules R56, R62 row 2: a MESSAGE frame whose header is `01 41 40 00`; `body` follows the header. -/
  | fStatusCompact (seq lenLo lenHi checksum : Byte) (body : Bytes)
  /-- F_STATUS_RICH, rules R57, R62 row 3: an ACK frame whose header is the parameter `HDR_STATUS_RICH`. -/
  | fStatusRich (seq lenLo lenHi checksum : Byte) (body : Bytes)
  /-- F_COMPLETION, rules R59, R62 row 4: a MESSAGE frame whose header is `01 F7 A3 00`. -/
  | fCompletion (seq lenLo lenHi checksum : Byte) (body : Bytes)
  /-- F_ACK_RECORD, rules R60, R62 row 5: an ACK frame with any other header. -/
  | fAckRecord (seq lenLo lenHi checksum : Byte) (header : Header) (body : Bytes)
  /-- F_STATUS_REQ, rule R61: a MESSAGE frame whose header is `01 40 40 00`. -/
  | fStatusReq (seq lenLo lenHi checksum : Byte) (body : Bytes)
  /-- F_START_HEAT, rule R61: a MESSAGE frame whose header is `01 F0 A3 00`. -/
  | fStartHeat (seq lenLo lenHi checksum : Byte) (body : Bytes)
  /-- F_SET_MY_TEMP, rule R61: a MESSAGE frame whose header is `01 F3 A3 00`. -/
  | fSetMyTemp (seq lenLo lenHi checksum : Byte) (body : Bytes)
  /-- F_UNRECOGNIZED, rule R62 rows 1 and 6: a MESSAGE frame that no row above takes, or a frame of either kind whose
  payload is too short for a header. -/
  | fUnrecognized (kind : Kind) (seq lenLo lenHi checksum : Byte) (payload : Bytes)
  deriving DecidableEq, Repr

end Sys2Proof
end

