-- ==== Sys2Proof/Machine/Dispatch.lean ====
section
/-! DEFINITION. One arm per constructor of Instr: the meaning of each row of the opcode table. -/

namespace Sys2Proof.Machine

def exec (i : Instr) (s : State) : Host.Outcome State Fault Refusal :=
  match i with
  | .cksum b => Sys2Proof.Machine.execCksum b s
  | .frameCk f => Sys2Proof.Machine.execFrameCk f s
  | .encode kind seq payload => Sys2Proof.Machine.execEncode kind seq payload s
  | .decode f => Sys2Proof.Machine.execDecode f s
  | .clear => Sys2Proof.Machine.execClear s
  | .append chunk => Sys2Proof.Machine.execAppend chunk s
  | .drainStep => Sys2Proof.Machine.execDrainStep s
  | .drain => Sys2Proof.Machine.execDrain s
  | .split f => Sys2Proof.Machine.execSplit f s
  | .dispatch env => Sys2Proof.Machine.execDispatch env s
  | .parseStatusCompact seq p => Sys2Proof.Machine.execParseStatusCompact seq p s
  | .parseStatusRich seq p => Sys2Proof.Machine.execParseStatusRich seq p s
  | .parseAck seq p => Sys2Proof.Machine.execParseAck seq p s
  | .parseCompletion seq p => Sys2Proof.Machine.execParseCompletion seq p s
  | .encStatusReq => Sys2Proof.Machine.execEncStatusReq s
  | .encStartHeat mode holdEnable holdSeconds => Sys2Proof.Machine.execEncStartHeat mode holdEnable holdSeconds s
  | .decStartHeatBody b => Sys2Proof.Machine.execDecStartHeatBody b s
  | .encDelayedStartBody delaySeconds mode holdEnable holdSeconds => Sys2Proof.Machine.execEncDelayedStartBody delaySeconds mode holdEnable holdSeconds s
  | .decDelayedStartBody b => Sys2Proof.Machine.execDecDelayedStartBody b s
  | .encSetMyTemp t => Sys2Proof.Machine.execEncSetMyTemp t s
  | .envMessage seq lenLo lenHi checksum payload => Sys2Proof.Machine.execEnvMessage seq lenLo lenHi checksum payload s
  | .envAck seq lenLo lenHi checksum payload => Sys2Proof.Machine.execEnvAck seq lenLo lenHi checksum payload s
  | .fStatusCompact seq lenLo lenHi checksum body => Sys2Proof.Machine.execFStatusCompact seq lenLo lenHi checksum body s
  | .fStatusRich seq lenLo lenHi checksum body => Sys2Proof.Machine.execFStatusRich seq lenLo lenHi checksum body s
  | .fCompletion seq lenLo lenHi checksum body => Sys2Proof.Machine.execFCompletion seq lenLo lenHi checksum body s
  | .fAckRecord seq lenLo lenHi checksum header body => Sys2Proof.Machine.execFAckRecord seq lenLo lenHi checksum header body s
  | .fStatusReq seq lenLo lenHi checksum body => Sys2Proof.Machine.execFStatusReq seq lenLo lenHi checksum body s
  | .fStartHeat seq lenLo lenHi checksum body => Sys2Proof.Machine.execFStartHeat seq lenLo lenHi checksum body s
  | .fSetMyTemp seq lenLo lenHi checksum body => Sys2Proof.Machine.execFSetMyTemp seq lenLo lenHi checksum body s
  | .fUnrecognized kind seq lenLo lenHi checksum payload => Sys2Proof.Machine.execFUnrecognized kind seq lenLo lenHi checksum payload s

end Sys2Proof.Machine
end

