-- ==== Sys2Proof/WellFormed.lean ====
section
/-! DEFINITION. Which requests are well formed: the operands lie in the domain the operation's rule states
(60_exceptions.md rule R196), and a wire row's frame is one of that row (30_encoding.md rules R62, R69). The parameters
matter only through `HDR_STATUS_RICH`. -/

namespace Sys2Proof

open Machine

/-- Whether a request's operands lie in its domain and, for a wire row, the frame belongs to the row. -/
def wellFormed (p : Params) : Instr → Bool
  | .cksum _ => true
  | .frameCk f => envLen ≤ f.length
  | .encode _ _ payload => payload.length ≤ maxPayload
  | .decode _ => true
  | .clear => true
  | .append chunk => chunk.length ≤ bufCap
  | .drainStep => true
  | .drain => true
  | .split f => splitTakes f
  | .dispatch env => envelopeWf env
  | .parseStatusCompact _ q => hasHeader q hdrStatusCompact
  | .parseStatusRich _ q => hasHeader q p.hdrStatusRich
  | .parseAck _ q => ackParserTakes p.hdrStatusRich q
  | .parseCompletion _ q => hasHeader q hdrCompletion
  | .encStatusReq => true
  | .encStartHeat mode _ holdSeconds => inWordRange mode && inWordRange holdSeconds
  | .decStartHeatBody _ => true
  | .encDelayedStartBody delaySeconds mode _ holdSeconds =>
    inWordRange delaySeconds && inWordRange mode && inWordRange holdSeconds
  | .decDelayedStartBody _ => true
  | .encSetMyTemp t => inByteRange t
  | .envMessage _ _ _ _ _ => true
  | .envAck _ _ _ _ _ => true
  | .fStatusCompact _ _ _ _ _ => true
  | .fStatusRich _ _ _ _ _ => true
  | .fCompletion _ _ _ _ _ => true
  | .fAckRecord _ _ _ _ header _ => header ≠ p.hdrStatusRich
  | .fStatusReq _ _ _ _ _ => true
  | .fStartHeat _ _ _ _ _ => true
  | .fSetMyTemp _ _ _ _ _ => true
  | .fUnrecognized kind _ _ _ _ payload => unrecognizedRow kind payload

end Sys2Proof
end

