-- ==== Sys2Proof/Decode.lean ====
section
/-! DEFINITION. The decoder of request packets, the encoder, and the reading of one opcode-table word. A packet is the
byte string of one whole request. The spec numbers the operations by a 5-bit OPSEL (30_encoding.md rule R68) and gives
their operands no encoding, so the layout of the operand bytes is the model's own (DESIGN CHOICE, log 1); a wire row's
bytes are the spec's frame (rules R50, R69). -/

namespace Sys2Proof

open Machine

/-- The view byte before a frame that is to be read as an envelope only: rows ENV_MESSAGE and ENV_ACK (log 7). -/
def envelopeView : Byte := 0xE0#8

/-- The view byte before a frame that is to be read as a payload shape or command, whatever its length: the F_ rows
(log 7). -/
def shapeView : Byte := 0xE1#8

/-- A Kind operand of an operation: 0 is MESSAGE, 1 is ACK (log 1). -/
def kindOperand (b : Byte) : Option Kind :=
  if b = 0x00#8 then some .message else if b = 0x01#8 then some .ack else none

/-- A Kind as an operand byte (log 1). -/
def kindOperandByte : Kind → Byte
  | .message => 0x00#8
  | .ack => 0x01#8

/-- A Bool operand of an operation: 0 is false, 1 is true (log 1). -/
def boolOperand (b : Byte) : Option Bool :=
  if b = 0x00#8 then some false else if b = 0x01#8 then some true else none

/-- A Bool as an operand byte (log 1). -/
def boolOperandByte (f : Bool) : Byte := if f then 0x01#8 else 0x00#8

/-- Operands of ENCODE: kind, seq, payload. -/
def decodeEncodeOperands : Bytes → Except DecodeErr Instr
  | k :: seq :: payload =>
    match kindOperand k with
    | some kind => .ok (.encode kind seq payload)
    | none => .error .malformedOperands
  | _ => .error .malformedOperands

/-- Operands of DISPATCH: kind, seq, checksum, payload; `len` is the payload's length (rule R95). -/
def decodeDispatchOperands : Bytes → Except DecodeErr Instr
  | k :: seq :: checksum :: payload =>
    match kindOperand k with
    | some kind => .ok (.dispatch ⟨kind, seq, payload.length, checksum, payload⟩)
    | none => .error .malformedOperands
  | _ => .error .malformedOperands

/-- Operands of a PARSE operation: seq, then the payload. -/
def decodeParseOperands (mk : Byte → Bytes → Instr) : Bytes → Except DecodeErr Instr
  | seq :: p => .ok (mk seq p)
  | _ => .error .malformedOperands

/-- An operation without operands. -/
def decodeNoOperands (i : Instr) : Bytes → Except DecodeErr Instr
  | [] => .ok i
  | _ => .error .malformedOperands

/-- Operands of ENC_START_HEAT: mode, hold_enable, hold_seconds; the numbers low byte first. -/
def decodeStartHeatOperands : Bytes → Except DecodeErr Instr
  | [m0, m1, e, h0, h1] =>
    match boolOperand e with
    | some holdEnable => .ok (.encStartHeat (le16 m0 m1) holdEnable (le16 h0 h1))
    | none => .error .malformedOperands
  | _ => .error .malformedOperands

/-- Operands of ENC_DELAYED_START_BODY: delay_seconds, mode, hold_enable, hold_seconds; the numbers low byte first. -/
def decodeDelayedStartOperands : Bytes → Except DecodeErr Instr
  | [d0, d1, m0, m1, e, h0, h1] =>
    match boolOperand e with
    | some holdEnable => .ok (.encDelayedStartBody (le16 d0 d1) (le16 m0 m1) holdEnable (le16 h0 h1))
    | none => .error .malformedOperands
  | _ => .error .malformedOperands

/-- Operand of ENC_SET_MY_TEMP: one byte. -/
def decodeSetMyTempOperands : Bytes → Except DecodeErr Instr
  | [t] => .ok (.encSetMyTemp t.toNat)
  | _ => .error .malformedOperands

/-- An operation from its OPSEL and its operand bytes (rule R68). -/
def decodeOperation (op : Nat) (xs : Bytes) : Except DecodeErr Instr :=
  match op with
  | 0 => .ok (.cksum xs)
  | 1 => .ok (.frameCk xs)
  | 2 => decodeEncodeOperands xs
  | 3 => .ok (.decode xs)
  | 4 => decodeNoOperands .clear xs
  | 5 => .ok (.append xs)
  | 6 => decodeNoOperands .drainStep xs
  | 7 => decodeNoOperands .drain xs
  | 8 => .ok (.split xs)
  | 9 => decodeDispatchOperands xs
  | 10 => decodeParseOperands .parseStatusCompact xs
  | 11 => decodeParseOperands .parseStatusRich xs
  | 12 => decodeParseOperands .parseAck xs
  | 13 => decodeParseOperands .parseCompletion xs
  | 14 => decodeNoOperands .encStatusReq xs
  | 15 => decodeStartHeatOperands xs
  | 16 => .ok (.decStartHeatBody xs)
  | 17 => decodeDelayedStartOperands xs
  | 18 => .ok (.decDelayedStartBody xs)
  | 19 => decodeSetMyTempOperands xs
  | _ => .error .unknownOpsel

/-- A frame read as an envelope only: ENV_MESSAGE or ENV_ACK by its kind byte (rules R50, R52). -/
def decodeEnvelopeRow : Bytes → Except DecodeErr Instr
  | m :: k :: seq :: lenLo :: lenHi :: checksum :: payload =>
    if m = magic then
      match kindOfCode k with
      | some .message => .ok (.envMessage seq lenLo lenHi checksum payload)
      | some .ack => .ok (.envAck seq lenLo lenHi checksum payload)
      | none => .error .noWireRow
    else .error .noWireRow
  | _ => .error .noWireRow

/-- The F_ row of a frame that has a command header: the rows of rule R62 and of rule R61, the exact keys before the
fallback rows (rule R69). -/
def decodeHeaderRow (p : Params) (kind : Kind) (seq lenLo lenHi checksum : Byte) (h : Header) (body : Bytes) : Instr :=
  match kind with
  | .message =>
    if h = hdrStatusCompact then .fStatusCompact seq lenLo lenHi checksum body
    else if h = hdrCompletion then .fCompletion seq lenLo lenHi checksum body
    else if h = hdrStatusReq then .fStatusReq seq lenLo lenHi checksum body
    else if h = hdrStartHeat then .fStartHeat seq lenLo lenHi checksum body
    else if h = hdrSetMyTemp then .fSetMyTemp seq lenLo lenHi checksum body
    else .fUnrecognized .message seq lenLo lenHi checksum (headerBytes h ++ body)
  | .ack =>
    if h = p.hdrStatusRich then .fStatusRich seq lenLo lenHi checksum body
    else .fAckRecord seq lenLo lenHi checksum h body

/-- A frame read as a payload shape or command: the F_ rows (rules R61, R62, R69). -/
def decodeShapeRow (p : Params) : Bytes → Except DecodeErr Instr
  | m :: k :: seq :: lenLo :: lenHi :: checksum :: payload =>
    if m = magic then
      match kindOfCode k with
      | some kind =>
        match headerOf payload with
        | some h => .ok (decodeHeaderRow p kind seq lenLo lenHi checksum h (payload.drop hdrLen))
        | none => .ok (.fUnrecognized kind seq lenLo lenHi checksum payload)
      | none => .error .noWireRow
    else .error .noWireRow
  | _ => .error .noWireRow

/-- A bare frame: read by its F_ row when it is long enough to hold a command header, by its ENV_ row when it is not,
since then only the 6-byte patterns of the table can match it (rule R69; log 7). -/
def decodeFrameRow (p : Params) (f : Bytes) : Except DecodeErr Instr :=
  if f.length < envLen + hdrLen then decodeEnvelopeRow f else decodeShapeRow p f

/-- The request a packet stands for. The first byte is an OPSEL (bits 7 to 5 zero), a view byte, or the magic of a bare
frame. Total: every packet gives a request or a reason by name. -/
def decode (p : Params) : Bytes → Except DecodeErr Instr
  | [] => .error .emptyRequest
  | b :: rest =>
    if b.toNat < 32 then decodeOperation b.toNat rest
    else if b = envelopeView then decodeEnvelopeRow rest
    else if b = shapeView then decodeShapeRow p rest
    else if b = magic then decodeFrameRow p (b :: rest)
    else .error .unknownSelector

/-- The spec's own bytes of a request: OPSEL and operands for an operation, the frame for a wire row. -/
def rowBytes (p : Params) : Instr → Bytes
  | .cksum s => 0x00#8 :: s
  | .frameCk f => 0x01#8 :: f
  | .encode kind seq payload => 0x02#8 :: kindOperandByte kind :: seq :: payload
  | .decode s => 0x03#8 :: s
  | .clear => [0x04#8]
  | .append chunk => 0x05#8 :: chunk
  | .drainStep => [0x06#8]
  | .drain => [0x07#8]
  | .split f => 0x08#8 :: f
  | .dispatch env => 0x09#8 :: kindOperandByte env.kind :: env.seq :: env.checksum :: env.payload
  | .parseStatusCompact seq q => 0x0A#8 :: seq :: q
  | .parseStatusRich seq q => 0x0B#8 :: seq :: q
  | .parseAck seq q => 0x0C#8 :: seq :: q
  | .parseCompletion seq q => 0x0D#8 :: seq :: q
  | .encStatusReq => [0x0E#8]
  | .encStartHeat mode e holdSeconds => 0x0F#8 :: (le16Bytes mode ++ [boolOperandByte e] ++ le16Bytes holdSeconds)
  | .decStartHeatBody b => 0x10#8 :: b
  | .encDelayedStartBody delaySeconds mode e holdSeconds =>
    0x11#8 :: (le16Bytes delaySeconds ++ le16Bytes mode ++ [boolOperandByte e] ++ le16Bytes holdSeconds)
  | .decDelayedStartBody b => 0x12#8 :: b
  | .encSetMyTemp t => [0x13#8, loByte t]
  | .envMessage seq lenLo lenHi checksum payload => wireFrame .message seq lenLo lenHi checksum payload
  | .envAck seq lenLo lenHi checksum payload => wireFrame .ack seq lenLo lenHi checksum payload
  | .fStatusCompact seq lenLo lenHi checksum body =>
    wireFrame .message seq lenLo lenHi checksum (headerBytes hdrStatusCompact ++ body)
  | .fStatusRich seq lenLo lenHi checksum body =>
    wireFrame .ack seq lenLo lenHi checksum (headerBytes p.hdrStatusRich ++ body)
  | .fCompletion seq lenLo lenHi checksum body =>
    wireFrame .message seq lenLo lenHi checksum (headerBytes hdrCompletion ++ body)
  | .fAckRecord seq lenLo lenHi checksum header body =>
    wireFrame .ack seq lenLo lenHi checksum (headerBytes header ++ body)
  | .fStatusReq seq lenLo lenHi checksum body =>
    wireFrame .message seq lenLo lenHi checksum (headerBytes hdrStatusReq ++ body)
  | .fStartHeat seq lenLo lenHi checksum body =>
    wireFrame .message seq lenLo lenHi checksum (headerBytes hdrStartHeat ++ body)
  | .fSetMyTemp seq lenLo lenHi checksum body =>
    wireFrame .message seq lenLo lenHi checksum (headerBytes hdrSetMyTemp ++ body)
  | .fUnrecognized kind seq lenLo lenHi checksum payload => wireFrame kind seq lenLo lenHi checksum payload

/-- The view byte that goes before a request's bytes where they alone do not say which row is meant (log 7). -/
def viewBytes : Instr → Bytes
  | .envMessage _ _ _ _ _ => [envelopeView]
  | .envAck _ _ _ _ _ => [envelopeView]
  | .fUnrecognized _ _ _ _ _ _ => [shapeView]
  | _ => []

/-- The packet of a request. -/
def encode (p : Params) (i : Instr) : Bytes := viewBytes i ++ rowBytes p i

/-- The bits a wire row or an OPSEL fixes, byte by byte in wire order, `none` where the mask of opcode_table.json is 0
(rules R68, R69). -/
def rowPattern (p : Params) : Instr → List (Option Byte)
  | .cksum _ => [some 0x00#8]
  | .frameCk _ => [some 0x01#8]
  | .encode _ _ _ => [some 0x02#8]
  | .decode _ => [some 0x03#8]
  | .clear => [some 0x04#8]
  | .append _ => [some 0x05#8]
  | .drainStep => [some 0x06#8]
  | .drain => [some 0x07#8]
  | .split _ => [some 0x08#8]
  | .dispatch _ => [some 0x09#8]
  | .parseStatusCompact _ _ => [some 0x0A#8]
  | .parseStatusRich _ _ => [some 0x0B#8]
  | .parseAck _ _ => [some 0x0C#8]
  | .parseCompletion _ _ => [some 0x0D#8]
  | .encStatusReq => [some 0x0E#8]
  | .encStartHeat _ _ _ => [some 0x0F#8]
  | .decStartHeatBody _ => [some 0x10#8]
  | .encDelayedStartBody _ _ _ _ => [some 0x11#8]
  | .decDelayedStartBody _ => [some 0x12#8]
  | .encSetMyTemp _ => [some 0x13#8]
  | .envMessage _ _ _ _ _ => [some 0xA5#8, some 0x22#8, none, none, none, none]
  | .envAck _ _ _ _ _ => [some 0xA5#8, some 0x12#8, none, none, none, none]
  | .fStatusCompact _ _ _ _ _ =>
    [some 0xA5#8, some 0x22#8, none, none, none, none, some 0x01#8, some 0x41#8, some 0x40#8, some 0x00#8]
  | .fStatusRich _ _ _ _ _ =>
    [some 0xA5#8, some 0x12#8, none, none, none, none] ++ (headerBytes p.hdrStatusRich).map some
  | .fCompletion _ _ _ _ _ =>
    [some 0xA5#8, some 0x22#8, none, none, none, none, some 0x01#8, some 0xF7#8, some 0xA3#8, some 0x00#8]
  | .fAckRecord _ _ _ _ _ _ => [some 0xA5#8, some 0x12#8, none, none, none, none]
  | .fStatusReq _ _ _ _ _ =>
    [some 0xA5#8, some 0x22#8, none, none, none, none, some 0x01#8, some 0x40#8, some 0x40#8, some 0x00#8]
  | .fStartHeat _ _ _ _ _ =>
    [some 0xA5#8, some 0x22#8, none, none, none, none, some 0x01#8, some 0xF0#8, some 0xA3#8, some 0x00#8]
  | .fSetMyTemp _ _ _ _ _ =>
    [some 0xA5#8, some 0x22#8, none, none, none, none, some 0x01#8, some 0xF3#8, some 0xA3#8, some 0x00#8]
  | .fUnrecognized kind _ _ _ _ _ => [some 0xA5#8, some (kindCode kind), none, none, none, none]

/-- Whether a byte string matches a pattern: it is at least as long, and agrees on every fixed byte (rule R69). -/
def matchesPattern : List (Option Byte) → Bytes → Bool
  | [], _ => true
  | none :: ps, _ :: bs => matchesPattern ps bs
  | some a :: ps, b :: bs => a = b && matchesPattern ps bs
  | _ :: _, [] => false

/-- The least number of operand bytes an operation's packet needs for its operands to be in layout and, where zeros can
be, in their domain; a table word that stops at OPSEL is filled up to it with zeros. -/
def zeroOperands (op : Nat) : Nat :=
  match op with
  | 1 => 6
  | 2 => 2
  | 8 => 6
  | 9 => 3
  | 10 => 5
  | 11 => 5
  | 12 => 5
  | 13 => 5
  | 15 => 5
  | 17 => 7
  | 19 => 1
  | _ => 0

/-- The bytes of a number of `nbits` bits: bits 7 to 0 first. -/
def tableBytes (nbits w : Nat) : Bytes :=
  (List.range ((nbits + 7) / 8)).map fun i => BitVec.ofNat 8 (w / 256 ^ i)

/-- The packet of an opcode-table word: its bytes, with the operand bytes that the table does not give as zeros. -/
def tablePacket (nbits w : Nat) : Bytes :=
  match tableBytes nbits w with
  | [] => []
  | b :: rest =>
    if b.toNat < 32 then b :: rest ++ List.replicate (zeroOperands b.toNat - rest.length) 0x00#8
    else b :: rest

/-- The request the decoder reads from an opcode-table word, with the parameters at their defaults. -/
def decodeTableWord (nbits w : Nat) : Option Instr :=
  match decode defaultParams (tablePacket nbits w) with
  | .ok i => some i
  | .error _ => none

end Sys2Proof
end

