-- ==== Sys2Proof/Machine/Fetch.lean ====
section
/-! DEFINITION. What the block does next. The requests on the port are performed in order (20_memory.md rule R37); between
the steps of a DRAIN begun with `DRAIN_ATOMIC = false`, `sched` says whether the next request falls there (rule R38). -/

namespace Sys2Proof.Machine

/-- What comes next, with the state it acts on. -/
inductive Next where
  /-- No request: the block holds BUF and does nothing (rule R211). -/
  | idle
  /-- A request taken from the port. -/
  | run (i : Instr) (s : State)
  /-- The next step of the DRAIN in progress. -/
  | advance (out : List Envelope) (s : State)
  /-- The next packet names no request. -/
  | reject (why : DecodeErr)
  deriving DecidableEq, Repr

/-- Whether a request may fall between two steps of a DRAIN: APPEND and CLEAR (rule R38) and everything that touches no
state (rule R199); a second drainer may not (rule R232). -/
def mayInterleave : Instr → Bool
  | .drain => false
  | .drainStep => false
  | _ => true

/-- The next request of the port, in order. -/
def nextRequest (s : State) : Next :=
  match s.port with
  | [] => .idle
  | packet :: rest =>
    match decode s.params packet with
    | .ok i => .run i { s with port := rest }
    | .error e => .reject e

/-- The next request of the port if it may fall between two steps of a DRAIN; otherwise the DRAIN goes on. -/
def nextInterleaved (out : List Envelope) (s : State) : Next :=
  match nextRequest s with
  | .run i s' => if mayInterleave i then .run i s' else .advance out s
  | _ => .advance out s

/-- What the block does next. -/
def fetch (s : State) : Next :=
  match s.draining with
  | none => nextRequest s
  | some out =>
    match s.sched with
    | true :: rest => nextInterleaved out { s with sched := rest }
    | false :: rest => .advance out { s with sched := rest }
    | [] => .advance out s

end Sys2Proof.Machine
end

