-- ==== Sys2Proof/Machine/Step.lean ====
section
/-! DEFINITION. One step: an idle moment, one request, or one step of a DRAIN in progress; and the placing of one
opcode-table word as the next request. -/

namespace Sys2Proof.Machine

/-- One step of the machine. -/
def step (s : State) : Host.Outcome State Fault Refusal :=
  match fetch s with
  | .idle => .next s
  | .run i s' => exec i s'
  | .advance out s' => drainAdvance out s'
  | .reject e => .refused (.badRequest e)

/-- The state with the request of an opcode-table word as the next one: its packet goes to the head of the port, and no
DRAIN is in progress, so that the very next step performs it (log 1). -/
def State.withFetchWord (s : State) (nbits w : Nat) : State :=
  { s with port := tablePacket nbits w :: s.port, draining := none }

end Sys2Proof.Machine
end

