-- ==== Sys2Proof/Machine/Pseudo.lean ====
section
/-! DEFINITION. The pseudo-operations RX, TX and FEED (30_encoding.md rule R67), as compositions of the operations'
meanings with DRAIN taken as one action (rule R38, default). They have no row in the opcode table. -/

namespace Sys2Proof.Machine

/-- `FEED s`: APPEND of a whole byte string of at most 512 bytes (rule R67). -/
def feed (m : Memory) (s : Bytes) : Option Memory :=
  if s.length ≤ bufCap then some (appendChunk m s) else none

/-- APPEND of a chunk, then DRAIN: the Envelopes emitted and the buffer left (rule R67). None when APPEND refuses. -/
def appendDrain (m : Memory) (chunk : Bytes) : Option (List Envelope × Memory) :=
  match feed m chunk with
  | none => none
  | some m' =>
    match drainAll m' with
    | .ok r => some r
    | .error _ => none

/-- `RX chunk`: APPEND, DRAIN, then DISPATCH of each Envelope in order (rule R67). -/
def rx (params : Params) (m : Memory) (chunk : Bytes) : Option (List Parsed × Memory) :=
  match appendDrain m chunk with
  | some (es, m') => some (es.map (dispatchPayload params), m')
  | none => none

/-- APPEND and DRAIN for each chunk of a list in order: all Envelopes emitted, and the buffer left. -/
def appendDrainAll : Memory → List Bytes → Option (List Envelope × Memory)
  | m, [] => some ([], m)
  | m, c :: cs =>
    match appendDrain m c with
    | none => none
    | some (es, m') =>
      match appendDrainAll m' cs with
      | none => none
      | some (es', m'') => some (es ++ es', m'')

/-- `TX kind, seq, payload`: ENCODE, then SPLIT; the chunks are written to the transport in order (rule R67). None when
ENCODE refuses. -/
def tx (kind : Kind) (seq : Byte) (payload : Bytes) : Option (List Bytes) :=
  if payload.length ≤ maxPayload then some (splitFrame (encodeFrame kind seq payload)) else none

end Sys2Proof.Machine
end

