-- ==== Sys2Proof/Machine/Views.lean ====
section
/-! DEFINITION. Readings of returned values that the spec fixes and no operation performs: the names of stage and mode
codes (30_encoding.md rule R58), the on-base byte under a polarity (43_payload_dispatch.md rule R149), and the event the
Session raises for a Parsed value (60_exceptions.md rule R204). -/

namespace Sys2Proof.Machine

/-- The named heating stages (rule R58). -/
inductive Stage where
  | idle
  | heating
  | almostDone
  | keepWarm
  deriving DecidableEq, Repr

/-- The named operating modes (rule R58). -/
inductive Mode where
  | idle
  | greenTea
  | oolong
  | coffee
  | boil
  | myTemp
  | heat
  deriving DecidableEq, Repr

/-- The stage a byte names, none for `0x04` to `0xFF` (rule R58, D19). -/
def stageOfCode (b : Byte) : Option Stage :=
  [Stage.idle, .heating, .almostDone, .keepWarm][b.toNat]?

/-- The mode a byte names, none for `0x07` to `0xFF` (rule R58, D19). -/
def modeOfCode (b : Byte) : Option Mode :=
  [Mode.idle, .greenTea, .oolong, .coffee, .boil, .myTemp, .heat][b.toNat]?

/-- Whether the kettle stands on its base, under a polarity given as an argument (rule R149): none when the snapshot has
no on-base byte. -/
def onBase (polarity : Polarity) (snap : Snapshot) : Option Bool :=
  snap.onBaseRaw.map fun b =>
    match polarity with
    | .nonzeroIsOn => flagOfByte b
    | .zeroIsOn => !flagOfByte b

/-- The events whose cause the source fixes (rule R204). -/
inductive Event where
  | statusUpdated (snap : Snapshot)
  | heatingComplete
  | holdComplete
  | ackOutcome (seq : Byte) (success : Bool)
  deriving DecidableEq, Repr

/-- The event the Session raises for a Parsed value (rule R204); the ack outcome comes through the Tracker. UNRECOGNIZED
and REJECTED raise none. The block itself raises no event. -/
def eventOf : Parsed → Option Event
  | .status _ snap => some (.statusUpdated snap)
  | .completion _ .done => some .heatingComplete
  | .completion _ .holdComplete => some .holdComplete
  | .ackRecord r => some (.ackOutcome r.seq r.success)
  | .unrecognized _ _ _ => none
  | .rejected _ _ _ _ => none

end Sys2Proof.Machine
end

