-- ==== Sys2Proof/Safety.lean ====
section
/-! DEFINITION. The words claims are stated in: the byte sum, valid envelopes and frames in the closed form of the
checksum, the condition a drain leaves the buffer in, a DRAIN as a run of DRAIN_STEPs, and the invariant of a run. -/

namespace Sys2Proof.Machine

/-- The state with another returned value and nothing else changed: what a completed pure operation leaves. -/
abbrev State.returning (s : State) (r : Response) : State := { s with response := r }

/-- The sum of the bytes of a string, not wrapped. -/
def byteSum (s : Bytes) : Nat := (s.map BitVec.toNat).sum

/-- The bytes of the frame an Envelope stands for, written out from rules R50 and R51. -/
def frameBytes (e : Envelope) : Bytes :=
  [0xA5#8, (match e.kind with | .message => 0x22#8 | .ack => 0x12#8), e.seq, BitVec.ofNat 8 (e.len % 256),
    BitVec.ofNat 8 (e.len / 256), e.checksum] ++ e.payload

/-- An Envelope whose length field and checksum are right: rules R8, R51, and form (2) of rule R83, the sum of all bytes
of the frame is `0xFF` modulo 256. -/
abbrev ValidEnvelope (e : Envelope) : Prop :=
  e.len = e.payload.length ∧ e.len ≤ 256 ∧ byteSum (frameBytes e) % 256 = 255

/-- `f` is the valid frame of the Envelope `e`. -/
abbrev ValidFrame (f : Bytes) (e : Envelope) : Prop := f = frameBytes e ∧ ValidEnvelope e

/-- Rule R20: the buffer is empty, or begins with a magic byte whose frame is not yet complete. -/
abbrev HeadPending (m : Memory) : Prop :=
  m = [] ∨ (m[0]? = some 0xA5#8 ∧
    (m.length < 6 ∨ m.length < 6 + ((m.getD 3 0).toNat + 256 * (m.getD 4 0).toNat)))

/-- A run of `n` DRAIN_STEPs from one state to the state after the step that stops, with the Envelopes it emitted in order
(rules R38, R114). -/
inductive DrainSteps : State → Nat → List Envelope → State → Prop where
  | stop {s t : State} (h : exec .drainStep s = .next t) (hr : t.response = .step .stop) : DrainSteps s 1 [] t
  | cont {s t u : State} {n : Nat} {es : List Envelope} (h : exec .drainStep s = .next t)
      (hr : t.response = .step .cont) (rest : DrainSteps t n es u) : DrainSteps s (n + 1) es u
  | emit {s t u : State} {n : Nat} {e : Envelope} {es : List Envelope} (h : exec .drainStep s = .next t)
      (hr : t.response = .step (.emit e)) (rest : DrainSteps t n es u) : DrainSteps s (n + 1) (e :: es) u

/-- APPEND of each chunk in order. -/
def appendRun : List Bytes → State → Option State
  | [], s => some s
  | c :: cs, s =>
    match exec (.append c) s with
    | .next t => appendRun cs t
    | _ => none

/-- APPEND and then DRAIN for each chunk in order: what each DRAIN returned, and the last state. -/
def appendDrainRun : List Bytes → State → Option (List Response × State)
  | [], s => some ([], s)
  | c :: cs, s =>
    match exec (.append c) s with
    | .next t =>
      match exec .drain t with
      | .next u =>
        match appendDrainRun cs u with
        | some (rs, v) => some (u.response :: rs, v)
        | none => none
      | _ => none
    | _ => none

/-- A frame's request `i` completes with what DECODE of the frame `f`, and DISPATCH of its Envelope, return (rule R69). -/
def ReceivesFrame (i : Instr) (f : Bytes) (s : State) : Prop :=
  ∃ r, exec i s = .next { s with response := r } ∧
    (∀ err, exec (.decode f) s = .next { s with response := .frameError err } → r = .frameError err) ∧
    ∀ e, exec (.decode f) s = .next { s with response := .envelope e } →
      exec (.dispatch e) s = .next { s with response := r }

/-- The same for a command's frame, with the command's fields beside what DISPATCH returns (rule R61; log 6). -/
def ReceivesCommand (i : Instr) (f : Bytes) (fields : CommandFields) (s : State) : Prop :=
  ∃ r, exec i s = .next { s with response := r } ∧
    (∀ err, exec (.decode f) s = .next { s with response := .frameError err } → r = .frameError err) ∧
    ∀ e, exec (.decode f) s = .next { s with response := .envelope e } →
      ∃ q, r = .command q fields ∧ exec (.dispatch e) s = .next { s with response := .parsed q }

/-- What holds between operations: LEN is at most 512 (rule R20); a DRAIN is in progress only with
`DRAIN_ATOMIC = false` (rule R38); what it has emitted so far are valid Envelopes. -/
abbrev Inv (s : State) : Prop :=
  s.buf.length ≤ 512 ∧ (s.params.drainAtomic = true → s.draining = none) ∧
    ∀ e ∈ s.draining.getD [], ValidEnvelope e

/-- The operations that read or write BUF (rule R10). -/
def touchesBuffer : Instr → Bool
  | .clear => true
  | .append _ => true
  | .drainStep => true
  | .drain => true
  | _ => false

/-- The requests that need no DRAIN in progress (rule R232). -/
def isDrainer : Instr → Bool
  | .drainStep => true
  | .drain => true
  | _ => false

end Sys2Proof.Machine
end

