-- ==== Sys2Proof/Certificates/Slice0/Obligations.lean ====
section
/-! DEFINITION. The statements for the provers. Each docstring names the rules of spec/ that the statement formalises or
rests on, and the log entry where it rests on the model's own choice. A conclusion `exec i s = .next { s with … }`, or
`exec i s = .next (s.returning r)`, is also the frame: every field of the state that is not named is unchanged. -/

open Sys2Proof Sys2Proof.Machine

/-! ### Checksum -/

/-- R80: CKSUM folds `acc <- (acc - s[i]) mod 256` over the bytes in order from 0, here on natural numbers; it is total
and writes no state. -/
def Obligations.CksumFoldsFromZero : Prop :=
  ∀ (b : Bytes) (s : State), exec (.cksum b) s = .next (s.returning
    (.byte (BitVec.ofNat 8 (b.foldl (fun acc x => (acc + 256 - x.toNat) % 256) 0))))

/-- R81: the closed form of CKSUM, its invariance under permutation, the sum over a concatenation, and that every change
of a single byte changes it while any change that keeps the byte sum modulo 256 does not. -/
def Obligations.CksumIsNegatedSum : Prop :=
  ∀ (s : State) (a b : Bytes),
    exec (.cksum a) s = .next { s with response := .byte (BitVec.ofNat 8 ((256 - byteSum a % 256) % 256)) } ∧
    (a.Perm b → exec (.cksum a) s = exec (.cksum b) s) ∧
    (byteSum a % 256 = byteSum b % 256 → exec (.cksum a) s = exec (.cksum b) s) ∧
    (∀ x y, exec (.cksum a) s = .next { s with response := .byte x } →
      exec (.cksum b) s = .next { s with response := .byte y } →
      exec (.cksum (a ++ b)) s = .next { s with response := .byte (BitVec.ofNat 8 ((x.toNat + y.toNat) % 256)) }) ∧
    ∀ x y : Byte, x ≠ y → exec (.cksum (a ++ x :: b)) s ≠ exec (.cksum (a ++ y :: b)) s

/-- R82: FRAME_CK of at least six bytes is the fold over all of them with byte 5 replaced by `0x01`; the byte that stands
there does not matter. Fewer than six bytes are refused. -/
def Obligations.FrameCkUsesPlaceholder : Prop :=
  ∀ (f : Bytes) (s : State),
    (6 ≤ f.length → exec (.frameCk f) s = .next (s.returning (.byte (BitVec.ofNat 8
      ((f.take 5 ++ [0x01#8] ++ f.drop 6).foldl (fun acc x => (acc + 256 - x.toNat) % 256) 0))))) ∧
    (f.length < 6 → exec (.frameCk f) s = .refused .frameTooShort)

/-- R83: a frame has a good checksum exactly when form (1) holds of its byte 5, and exactly when form (2), the sum of all
bytes being `0xFF` modulo 256, does. -/
def Obligations.GoodChecksumForms : Prop :=
  ∀ (f : Bytes) (s : State), 6 ≤ f.length →
    (exec (.frameCk f) s = .next { s with response := .byte (f.getD 5 0) } ↔
      f.getD 5 0 = BitVec.ofNat 8 ((256 - (byteSum (f.take 5) + byteSum (f.drop 6) + 1) % 256) % 256)) ∧
    (exec (.frameCk f) s = .next { s with response := .byte (f.getD 5 0) } ↔ byteSum f % 256 = 255)

/-! ### Envelope -/

/-- R90, R91: ENCODE of a payload of at most 256 bytes returns magic, kind code, seq, length low byte first, checksum,
payload; the checksum is the negated sum of the other bytes and the placeholder. A longer payload is refused. -/
def Obligations.EncodeBuildsFrame : Prop :=
  ∀ (kind : Kind) (seq : Byte) (payload : Bytes) (s : State),
    (payload.length ≤ 256 → exec (.encode kind seq payload) s = .next (s.returning (.bytes
      ([0xA5#8, (match kind with | .message => 0x22#8 | .ack => 0x12#8), seq,
        BitVec.ofNat 8 (payload.length % 256), BitVec.ofNat 8 (payload.length / 256),
        BitVec.ofNat 8 ((256 - (0xA5 + (match kind with | .message => 0x22 | .ack => 0x12) + seq.toNat +
          payload.length % 256 + payload.length / 256 + 1 + byteSum payload) % 256) % 256)] ++ payload)))) ∧
    (256 < payload.length → exec (.encode kind seq payload) s = .refused .payloadTooLong)

/-- R92, R197: DECODE makes its checks in the order of the rule; the first that fails gives the reason, as a value; else
the Envelope. The frame checksum is written in form (1) of R83. -/
def Obligations.DecodeChecksInOrder : Prop :=
  ∀ (f : Bytes) (s : State), exec (.decode f) s = .next (s.returning (
    if f.length < 6 then .frameError .tooShort
    else if f.getD 0 0 ≠ 0xA5#8 then .frameError .badMagic
    else if f.getD 1 0 ≠ 0x22#8 ∧ f.getD 1 0 ≠ 0x12#8 then .frameError .badKind
    else if (f.getD 3 0).toNat + 256 * (f.getD 4 0).toNat > 256 then .frameError .lengthOverCap
    else if f.length ≠ 6 + ((f.getD 3 0).toNat + 256 * (f.getD 4 0).toNat) then .frameError .lengthMismatch
    else if BitVec.ofNat 8 ((256 - (byteSum (f.take 5) + byteSum (f.drop 6) + 1) % 256) % 256) ≠ f.getD 5 0 then
      .frameError .badChecksum
    else .envelope
      { kind := if f.getD 1 0 = 0x22#8 then .message else .ack
        seq := f.getD 2 0
        len := (f.getD 3 0).toNat + 256 * (f.getD 4 0).toNat
        checksum := f.getD 5 0
        payload := f.drop 6 }))

/-- R97: DECODE of what ENCODE builds gives back kind, seq and payload, with byte 5 of the frame as the checksum. -/
def Obligations.DecodeOfEncode : Prop :=
  ∀ (kind : Kind) (seq : Byte) (payload : Bytes) (s : State), payload.length ≤ 256 →
    ∃ (f : Bytes) (c : Byte), exec (.encode kind seq payload) s = .next { s with response := .bytes f } ∧
      f[5]? = some c ∧
      exec (.decode f) s = .next { s with response := .envelope ⟨kind, seq, payload.length, c, payload⟩ }

/-- R98: ENCODE of the fields of a decoded frame gives the frame back; so ENCODE is injective, and the valid frames are
exactly what ENCODE builds. -/
def Obligations.EncodeOfDecode : Prop :=
  (∀ (f : Bytes) (e : Envelope) (s : State), exec (.decode f) s = .next { s with response := .envelope e } →
    exec (.encode e.kind e.seq e.payload) s = .next { s with response := .bytes f }) ∧
  (∀ (k₁ k₂ : Kind) (q₁ q₂ : Byte) (p₁ p₂ f : Bytes) (s : State),
    exec (.encode k₁ q₁ p₁) s = .next { s with response := .bytes f } →
    exec (.encode k₂ q₂ p₂) s = .next { s with response := .bytes f } → k₁ = k₂ ∧ q₁ = q₂ ∧ p₁ = p₂) ∧
  ∀ (f : Bytes) (s : State), (∃ e, exec (.decode f) s = .next { s with response := .envelope e }) ↔
    ∃ k q p, exec (.encode k q p) s = .next { s with response := .bytes f }

/-! ### Reassembler -/

/-- R110: CLEAR empties BUF whatever the state, and leaves everything else but the returned value; on an empty buffer BUF
is unchanged. What stands as the returned value afterwards is the model's choice (log 2) and is stated in
OnlyBufferOperationsWrite. -/
def Obligations.ClearEmptiesBuffer : Prop :=
  ∀ s : State, ∃ r, exec .clear s = .next { s with buf := [], response := r } ∧
    (s.buf = [] → exec .clear s = .next { s with response := r })

/-- R111, R112: APPEND of at most 512 bytes adds them at the end; when the sum would exceed 512 the whole buffer is
discarded first and the chunk kept whole. A longer chunk is refused. What stands as the returned value afterwards is the
model's choice (log 2) and is stated in OnlyBufferOperationsWrite. -/
def Obligations.AppendAddsOrDiscards : Prop :=
  ∀ (c : Bytes) (s : State),
    (c.length ≤ 512 → ∃ r, exec (.append c) s = .next { s with
      buf := if s.buf.length + c.length > 512 then c else s.buf ++ c
      response := r }) ∧
    (512 < c.length → exec (.append c) s = .refused .chunkTooLong)

/-- R113: DRAIN_STEP by the letters of the rule. (a) with no magic byte everything is discarded; (b) fewer than six bytes
from the magic on: stop; (c) the declared frame not complete: stop; (d) DECODE of the window fails: one byte is
discarded; (e) it succeeds: the frame's bytes are removed and the Envelope returned. With no DRAIN in progress (R232). -/
def Obligations.DrainStepByLetters : Prop :=
  ∀ s : State, s.draining = none →
    (0xA5#8 ∉ s.buf → exec .drainStep s = .next { s with buf := [], response := .step .stop }) ∧
    (∀ g t : Bytes, 0xA5#8 ∉ g → s.buf = g ++ 0xA5#8 :: t → t.length < 5 →
      exec .drainStep s = .next { s with buf := 0xA5#8 :: t, response := .step .stop }) ∧
    (∀ (g rest : Bytes) (k q lo hi c : Byte), 0xA5#8 ∉ g → s.buf = g ++ [0xA5#8, k, q, lo, hi, c] ++ rest →
      (rest.length < lo.toNat + 256 * hi.toNat →
        exec .drainStep s = .next { s with buf := [0xA5#8, k, q, lo, hi, c] ++ rest, response := .step .stop }) ∧
      (lo.toNat + 256 * hi.toNat ≤ rest.length →
        (∀ err, exec (.decode ([0xA5#8, k, q, lo, hi, c] ++ rest.take (lo.toNat + 256 * hi.toNat))) s
            = .next { s with response := .frameError err } →
          exec .drainStep s = .next { s with buf := [k, q, lo, hi, c] ++ rest, response := .step .cont }) ∧
        ∀ e, exec (.decode ([0xA5#8, k, q, lo, hi, c] ++ rest.take (lo.toNat + 256 * hi.toNat))) s
            = .next { s with response := .envelope e } →
          exec .drainStep s = .next
            { s with buf := rest.drop (lo.toNat + 256 * hi.toNat), response := .step (.emit e) }))

/-- R114, R115: DRAIN as one action is a run of DRAIN_STEPs until the first STOP, at most LEN + 1 of them; it returns the
Envelopes they emitted, in order, and leaves the buffer they left. -/
def Obligations.DrainRepeatsDrainStep : Prop :=
  ∀ s : State, s.draining = none → s.params.drainAtomic = true →
    ∃ n es t, DrainSteps s n es t ∧ n ≤ s.buf.length + 1 ∧
      exec .drain s = .next { s with buf := t.buf, response := .envelopes es }

/-- R115: a DRAIN_STEP that continues removes at least one byte and one that emits at least six; every run of steps to the
STOP has at most LEN + 1 of them; a DRAIN emits at most a sixth as many Envelopes as there were bytes; a second DRAIN
right after emits nothing and changes nothing. -/
def Obligations.DrainIsBounded : Prop :=
  ∀ s t : State,
    (exec .drainStep s = .next t → (t.response = .step .cont → t.buf.length + 1 ≤ s.buf.length) ∧
      ∀ e, t.response = .step (.emit e) → t.buf.length + 6 ≤ s.buf.length) ∧
    (∀ n es, DrainSteps s n es t → n ≤ s.buf.length + 1) ∧
    (s.params.drainAtomic = true → exec .drain s = .next t →
      (∃ es, t.response = .envelopes es ∧ es.length ≤ s.buf.length / 6) ∧
      exec .drain t = .next { t with response := .envelopes [] })

/-- R20, second sentence: after a DRAIN, or a DRAIN_STEP that stops, the buffer is empty or begins with a magic byte whose
frame is not yet complete. With `DRAIN_ATOMIC = false` (log 4) a DRAIN returns in its first step, when that step stops,
or in the later step after which none is in progress. -/
def Obligations.DrainLeavesHeadPending : Prop :=
  ∀ s t : State,
    (s.params.drainAtomic = true → exec .drain s = .next t → HeadPending t.buf) ∧
    (exec .drain s = .next t → t.draining = none → HeadPending t.buf) ∧
    (s.draining ≠ none → step s = .next t → t.draining = none → HeadPending t.buf) ∧
    (exec .drainStep s = .next t → t.response = .step .stop → HeadPending t.buf)

/-- R121: garbage free of `0xA5` and then a valid frame gives exactly the frame. Garbage with a `0xA5` in it forms a
false head: while its window is not complete DRAIN yields nothing; when it is complete and fails DECODE, DRAIN goes on
with what follows that one byte. -/
def Obligations.ResynchronisesPastGarbage : Prop :=
  ∀ (g f : Bytes) (e : Envelope) (s : State), ValidFrame f e → s.draining = none → s.params.drainAtomic = true →
    0xA5#8 ∉ g →
    (s.buf = g ++ f → exec .drain s = .next { s with buf := [], response := .envelopes [e] }) ∧
    ∀ g' w : Bytes, w = 0xA5#8 :: (g' ++ f) → s.buf = g ++ w →
      (w.length < 6 + ((w.getD 3 0).toNat + 256 * (w.getD 4 0).toNat) →
        exec .drain s = .next { s with buf := w, response := .envelopes [] }) ∧
      (6 + ((w.getD 3 0).toNat + 256 * (w.getD 4 0).toNat) ≤ w.length →
        ∀ err, exec (.decode (w.take (6 + ((w.getD 3 0).toNat + 256 * (w.getD 4 0).toNat)))) s
            = .next { s with response := .frameError err } →
          exec .drain s = exec .drain { s with buf := g' ++ f })

/-- R122: a valid frame split into chunks in any way, appended to an empty buffer. With a DRAIN after each APPEND, every
DRAIN before the one after the last chunk returns nothing, and that one returns the Envelope; with one DRAIN after all
APPENDs, it returns the same. The last chunk is not empty. -/
def Obligations.PartialFramesJoin : Prop :=
  ∀ (f : Bytes) (e : Envelope) (cs : List Bytes) (c : Bytes) (s : State), ValidFrame f e → cs.flatten ++ c = f → c ≠ [] →
    s.buf = [] → s.draining = none → s.params.drainAtomic = true →
    appendDrainRun (cs ++ [c]) s
      = some (List.replicate cs.length (.envelopes []) ++ [.envelopes [e]], { s with response := .envelopes [e] }) ∧
    (∃ t, appendRun (cs ++ [c]) s = some t ∧
      exec .drain t = .next { s with response := .envelopes [e] }) ∧
    ∀ a b : Bytes, a ++ b = f → b ≠ [] → exec .drain { s with buf := a }
      = .next { s with buf := a, response := .envelopes [] }

/-- R123: a valid frame whose checksum byte was changed fails DECODE with BAD_CHECKSUM, the first step discards the magic,
and when no other byte of it is `0xA5` the DRAIN returns nothing and empties the buffer. -/
def Obligations.CorruptedChecksumYieldsNothing : Prop :=
  ∀ (f : Bytes) (e : Envelope) (x : Byte) (s : State), ValidFrame f e → x ≠ e.checksum → s.buf = f.set 5 x →
    s.draining = none → s.params.drainAtomic = true →
    exec (.decode s.buf) s = .next { s with response := .frameError .badChecksum } ∧
    exec .drainStep s = .next { s with buf := s.buf.drop 1, response := .step .cont } ∧
    (0xA5#8 ∉ s.buf.drop 1 → exec .drain s = .next { s with buf := [], response := .envelopes [] })

/-- R124: what a DRAIN emits are frames that lay in the buffer one after another, without overlap, in the order emitted,
all of them removed; and valid frames with only bytes other than `0xA5` between and behind them are all emitted. -/
def Obligations.DrainEmitsFramesInOrder : Prop :=
  (∀ s t : State, s.params.drainAtomic = true → exec .drain s = .next t →
    ∃ (gaps : List (Bytes × Envelope)) (last : Bytes), t.response = .envelopes (gaps.map Prod.snd) ∧
      (∀ ge ∈ gaps, ValidEnvelope ge.2) ∧
      s.buf = gaps.flatMap (fun ge => ge.1 ++ frameBytes ge.2) ++ last ++ t.buf) ∧
  ∀ (s : State) (gaps : List (Bytes × Envelope)) (last : Bytes), s.draining = none → s.params.drainAtomic = true →
    (∀ ge ∈ gaps, 0xA5#8 ∉ ge.1 ∧ ValidEnvelope ge.2) → 0xA5#8 ∉ last →
    s.buf = gaps.flatMap (fun ge => ge.1 ++ frameBytes ge.2) ++ last →
    exec .drain s = .next { s with buf := [], response := .envelopes (gaps.map Prod.snd) }

/-- R119, R228: a head that declares more bytes than are buffered stops DRAIN_STEP and DRAIN, whatever lies behind it and
however implausible the length; with a declared length over 506 that stays so for every buffer of at most 512 bytes
that begins so, and APPEND keeps it at the head until it overflows and discards it. -/
def Obligations.StalledHeadHoldsDrain : Prop :=
  ∀ (k q lo hi : Byte) (rest : Bytes) (s : State), s.draining = none → s.params.drainAtomic = true →
    s.buf = [0xA5#8, k, q, lo, hi] ++ rest → s.buf.length ≤ 512 →
    (s.buf.length < 6 + (lo.toNat + 256 * hi.toNat) →
      exec .drainStep s = .next { s with response := .step .stop } ∧
      exec .drain s = .next { s with response := .envelopes [] }) ∧
    (506 < lo.toNat + 256 * hi.toNat → s.buf.length < 6 + (lo.toNat + 256 * hi.toNat) ∧
      ∀ c : Bytes, c.length ≤ 512 →
        (s.buf.length + c.length ≤ 512 → ∃ t, exec (.append c) s = .next t ∧
          t.buf = [0xA5#8, k, q, lo, hi] ++ (rest ++ c) ∧
          exec .drain t = .next { t with response := .envelopes [] }) ∧
        (512 < s.buf.length + c.length → ∃ t, exec (.append c) s = .next t ∧ t.buf = c))

/-- R125: SPLIT of a frame of 6 to 262 bytes gives ⌈|f| / 20⌉ chunks whose concatenation is the frame, every one but the
last of exactly 20 bytes, the last of 1 to 20. -/
def Obligations.SplitCutsTwentyByteChunks : Prop :=
  ∀ (f : Bytes) (s : State), 6 ≤ f.length → f.length ≤ 262 →
    ∃ cs : List Bytes, exec (.split f) s = .next { s with response := .chunks cs } ∧ cs.flatten = f ∧
      cs.length = (f.length + 19) / 20 ∧ (∀ c ∈ cs.dropLast, c.length = 20) ∧
      ∃ c, cs.getLast? = some c ∧ 1 ≤ c.length ∧ c.length ≤ 20 ∧ c.length = f.length - 20 * (cs.length - 1)

/-! ### Payload -/

/-- R140 with the default DISPATCH_TABLE: the length test, then the keys in order; each selects its parser, whose answer
DISPATCH gives. -/
def Obligations.DispatchSelectsParser : Prop :=
  ∀ (env : Envelope) (s : State), env.len = env.payload.length → env.len ≤ 256 →
    s.params.dispatchTable = defaultDispatchTable →
    exec (.dispatch env) s =
      if env.payload.length < 4 then
        .next { s with response := .parsed (.unrecognized env.kind env.seq env.payload) }
      else if env.kind = .message ∧ env.payload.take 4 = [0x01#8, 0x41#8, 0x40#8, 0x00#8] then
        exec (.parseStatusCompact env.seq env.payload) s
      else if env.kind = .ack ∧ env.payload.take 4 = headerBytes s.params.hdrStatusRich then
        exec (.parseStatusRich env.seq env.payload) s
      else if env.kind = .message ∧ env.payload.take 4 = [0x01#8, 0xF7#8, 0xA3#8, 0x00#8] then
        exec (.parseCompletion env.seq env.payload) s
      else if env.kind = .ack then exec (.parseAck env.seq env.payload) s
      else .next { s with response := .parsed (.unrecognized env.kind env.seq env.payload) }

/-- R155: for every Envelope, and whatever DISPATCH_TABLE is, DISPATCH completes with exactly one Parsed value, which
depends on the Envelope and the parameters only. -/
def Obligations.DispatchIsTotal : Prop :=
  ∀ (env : Envelope) (p : Params), env.len = env.payload.length → env.len ≤ 256 →
    ∃ q, ∀ s : State, s.params = p → exec (.dispatch env) s = .next { s with response := .parsed q }

/-- R141 and the first-match order of R62, for any DISPATCH_TABLE: when the first row with the frame's kind asks for
exactly the payload's header and selects the Ack Record shape, DISPATCH returns that record; when every row has another
kind or another exact header, it returns UNRECOGNIZED with the raw bytes. That a table other than the default sends the
Ack Record parser any kind and header, even those R150 keeps from it, is the model's choice (log 10). -/
def Obligations.DispatchFollowsTable : Prop :=
  ∀ (env : Envelope) (s : State) (h : Header) (pre post : List DispatchRow), env.len = env.payload.length →
    env.len ≤ 256 → env.payload.take 4 = headerBytes h → 4 ≤ env.payload.length →
    (s.params.dispatchTable = pre ++ ⟨env.kind, .exact h, .ackRecord⟩ :: post → (∀ r ∈ pre, r.kind ≠ env.kind) →
      exec (.dispatch env) s = .next (s.returning (.parsed (.ackRecord
        { seq := env.seq, header := h, success := (env.payload.getD 4 0) = 0x00#8, rest := env.payload.drop 4 })))) ∧
    ((∀ r ∈ s.params.dispatchTable, r.kind ≠ env.kind ∨
        ∃ k, r.header = .exact k ∧ env.payload.take 4 ≠ headerBytes k) →
      exec (.dispatch env) s = .next { s with response := .parsed (.unrecognized env.kind env.seq env.payload) })

/-- R143 with R142, R144 and R145: PARSE_STATUS_COMPACT of a payload with its header. -/
def Obligations.ParseStatusCompactResult : Prop :=
  ∀ (seq : Byte) (body : Bytes) (s : State),
    exec (.parseStatusCompact seq ([0x01#8, 0x41#8, 0x40#8, 0x00#8] ++ body)) s = .next (s.returning (.parsed
      (if 4 + body.length < 9 then
        .rejected .truncated .message seq ([0x01#8, 0x41#8, 0x40#8, 0x00#8] ++ body)
      else if (body.getD 2 0).toNat < 40 ∨ 230 < (body.getD 2 0).toNat ∨ (body.getD 3 0).toNat < 40 ∨
          230 < (body.getD 3 0).toNat then
        .rejected .range .message seq ([0x01#8, 0x41#8, 0x40#8, 0x00#8] ++ body)
      else .status .compact
        { seq := seq, stage := body.getD 0 0, mode := body.getD 1 0, setpoint := body.getD 2 0,
          temperature := body.getD 3 0, heating := body.getD 4 0 ≠ 0x00#8, onBaseRaw := none, myTemp := none,
          babyFormula := none, holdRemaining := none, errorCode := none })))

/-- R146 with R142, R144, R145, R147 and R148: PARSE_STATUS_RICH of a payload with the header HDR_STATUS_RICH, for any
layout and any heating function. -/
def Obligations.ParseStatusRichResult : Prop :=
  ∀ (seq : Byte) (p : Bytes) (s : State), 4 ≤ p.length → p.take 4 = headerBytes s.params.hdrStatusRich →
    exec (.parseStatusRich seq p) s = .next (s.returning (.parsed
      (if p.length < 8 then .rejected .truncated .ack seq p
      else if (p.getD 6 0).toNat < 40 ∨ 230 < (p.getD 6 0).toNat ∨ (p.getD 7 0).toNat < 40 ∨
          230 < (p.getD 7 0).toNat then .rejected .range .ack seq p
      else .status .rich
        { seq := seq, stage := p.getD 4 0, mode := p.getD 5 0, setpoint := p.getD 6 0, temperature := p.getD 7 0,
          heating := s.params.richHeating.getLsbD (p.getD 4 0).toNat,
          myTemp := if p.length > s.params.richLayout.myTemp then some (p.getD s.params.richLayout.myTemp 0) else none,
          onBaseRaw := if p.length > s.params.richLayout.onBase then some (p.getD s.params.richLayout.onBase 0) else none,
          holdRemaining := if p.length > s.params.richLayout.holdRemaining + 1 then
              some (256 * (p.getD s.params.richLayout.holdRemaining 0).toNat +
                (p.getD (s.params.richLayout.holdRemaining + 1) 0).toNat)
            else none,
          errorCode := if p.length > s.params.richLayout.errorCode then some (p.getD s.params.richLayout.errorCode 0)
            else none,
          babyFormula := if p.length > s.params.richLayout.babyFormula then
              some (p.getD s.params.richLayout.babyFormula 0 ≠ 0x00#8)
            else none })))

/-- R150, R151: PARSE_ACK of a payload whose header is not HDR_STATUS_RICH. -/
def Obligations.ParseAckResult : Prop :=
  ∀ (seq : Byte) (h : Header) (rest : Bytes) (s : State), h ≠ s.params.hdrStatusRich →
    exec (.parseAck seq (headerBytes h ++ rest)) s = .next (s.returning (.parsed (.ackRecord
      { seq := seq, header := h, success := rest = [] ∨ rest.head? = some 0x00#8, rest := rest })))

/-- R152: PARSE_COMPLETION of a payload with its header. -/
def Obligations.ParseCompletionResult : Prop :=
  ∀ (seq : Byte) (body : Bytes) (s : State),
    exec (.parseCompletion seq ([0x01#8, 0xF7#8, 0xA3#8, 0x00#8] ++ body)) s = .next (s.returning (.parsed
      (if 4 + body.length < 5 then .rejected .truncated .message seq ([0x01#8, 0xF7#8, 0xA3#8, 0x00#8] ++ body)
      else if body.getD 0 0 = 0x20#8 then .completion seq .done
      else if body.getD 0 0 = 0x21#8 then .completion seq .holdComplete
      else .rejected .badValue .message seq ([0x01#8, 0xF7#8, 0xA3#8, 0x00#8] ++ body))))

/-- R144: every status that DISPATCH returns, with any parameters, has setpoint and temperature within 40 to 230. -/
def Obligations.StatusReadingsInRange : Prop :=
  ∀ (env : Envelope) (s : State) (v : StatusVariant) (snap : Snapshot),
    exec (.dispatch env) s = .next { s with response := .parsed (.status v snap) } →
    40 ≤ snap.setpoint.toNat ∧ snap.setpoint.toNat ≤ 230 ∧ 40 ≤ snap.temperature.toNat ∧ snap.temperature.toNat ≤ 230

/-- R153: with any DISPATCH_TABLE, UNRECOGNIZED carries the frame's kind, its sequence number and the whole payload
unchanged. R154: with the default table REJECTED does too. -/
def Obligations.FailureValuesCarryRawBytes : Prop :=
  ∀ (env : Envelope) (s : State) (k : Kind) (q : Byte) (p : Bytes),
    (exec (.dispatch env) s = .next { s with response := .parsed (.unrecognized k q p) } →
      k = env.kind ∧ q = env.seq ∧ p = env.payload) ∧
    (s.params.dispatchTable = defaultDispatchTable →
      ∀ why, exec (.dispatch env) s = .next { s with response := .parsed (.rejected why k q p) } →
        k = env.kind ∧ q = env.seq ∧ p = env.payload)

/-! ### Commands -/

/-- R170: ENC_STATUS_REQ. -/
def Obligations.EncStatusReqResult : Prop :=
  ∀ s : State, exec .encStatusReq s = .next { s with response := .bytes [0x01#8, 0x40#8, 0x40#8, 0x00#8] }

/-- R171, R172: ENC_START_HEAT for operands in range: header, mode little-endian, hold_enable, hold_seconds big-endian. -/
def Obligations.EncStartHeatResult : Prop :=
  ∀ (m h : Nat) (e : Bool) (s : State), m ≤ 65535 → h ≤ 65535 →
    exec (.encStartHeat m e h) s = .next (s.returning (.bytes
      ([0x01#8, 0xF0#8, 0xA3#8, 0x00#8] ++ [BitVec.ofNat 8 (m % 256), BitVec.ofNat 8 (m / 256)] ++
        [if e then 0x01#8 else 0x00#8] ++ [BitVec.ofNat 8 (h / 256), BitVec.ofNat 8 (h % 256)])))

/-- R173: DEC_START_HEAT_BODY: TRUNCATED below five bytes, otherwise the fields; bytes beyond offset 4 are ignored. -/
def Obligations.DecStartHeatBodyResult : Prop :=
  ∀ (b : Bytes) (s : State), exec (.decStartHeatBody b) s = .next (s.returning (if b.length < 5 then .truncated
    else .startHeatBody
      { mode := (b.getD 0 0).toNat + 256 * (b.getD 1 0).toNat, holdEnable := b.getD 2 0 ≠ 0x00#8,
        holdSeconds := 256 * (b.getD 3 0).toNat + (b.getD 4 0).toNat }))

/-- R174: the body of an encoded start-heating payload decodes to the operands, all operands in range. -/
def Obligations.StartHeatRoundTrip : Prop :=
  ∀ (m h : Nat) (e : Bool) (s : State), m ≤ 65535 → h ≤ 65535 →
    ∃ q : Bytes, exec (.encStartHeat m e h) s = .next { s with response := .bytes q } ∧
      exec (.decStartHeatBody (q.drop 4)) s = .next { s with response := .startHeatBody ⟨m, e, h⟩ }

/-- R175: ENC_DELAYED_START_BODY for operands in range: the seven bytes of the body only. -/
def Obligations.EncDelayedStartResult : Prop :=
  ∀ (d m h : Nat) (e : Bool) (s : State), d ≤ 65535 → m ≤ 65535 → h ≤ 65535 →
    exec (.encDelayedStartBody d m e h) s = .next (s.returning (.bytes
      ([BitVec.ofNat 8 (d / 256), BitVec.ofNat 8 (d % 256)] ++ [BitVec.ofNat 8 (m % 256), BitVec.ofNat 8 (m / 256)] ++
        [if e then 0x01#8 else 0x00#8] ++ [BitVec.ofNat 8 (h / 256), BitVec.ofNat 8 (h % 256)])))

/-- R177: DEC_DELAYED_START_BODY: TRUNCATED below seven bytes, otherwise the fields. -/
def Obligations.DecDelayedStartBodyResult : Prop :=
  ∀ (b : Bytes) (s : State), exec (.decDelayedStartBody b) s = .next (s.returning (if b.length < 7 then .truncated
    else .delayedStartBody
      { delaySeconds := 256 * (b.getD 0 0).toNat + (b.getD 1 0).toNat,
        mode := (b.getD 2 0).toNat + 256 * (b.getD 3 0).toNat, holdEnable := b.getD 4 0 ≠ 0x00#8,
        holdSeconds := 256 * (b.getD 5 0).toNat + (b.getD 6 0).toNat }))

/-- R178: an encoded delayed-start body decodes to the operands, all operands in range. -/
def Obligations.DelayedStartRoundTrip : Prop :=
  ∀ (d m h : Nat) (e : Bool) (s : State), d ≤ 65535 → m ≤ 65535 → h ≤ 65535 →
    ∃ q : Bytes, exec (.encDelayedStartBody d m e h) s = .next { s with response := .bytes q } ∧
      exec (.decDelayedStartBody q) s = .next { s with response := .delayedStartBody ⟨d, m, e, h⟩ }

/-- R179: ENC_SET_MY_TEMP of any byte value: the header and the byte, not held to 40 to 230. -/
def Obligations.EncSetMyTempResult : Prop :=
  ∀ (t : Nat) (s : State), t ≤ 255 → exec (.encSetMyTemp t) s
    = .next (s.returning (.bytes [0x01#8, 0xF3#8, 0xA3#8, 0x00#8, BitVec.ofNat 8 t]))

/-- R196: the complete list of refusals; each gives no result and no next state. The range of an ENC operand is that of
its own rule (R171, R175, R179), and the key of a PARSE operation that of its own rule. -/
def Obligations.OutOfDomainIsRefused : Prop :=
  ∀ s : State,
    (∀ k q (p : Bytes), 256 < p.length → exec (.encode k q p) s = .refused .payloadTooLong) ∧
    (∀ c : Bytes, 512 < c.length → exec (.append c) s = .refused .chunkTooLong) ∧
    (∀ f : Bytes, f.length < 6 → exec (.frameCk f) s = .refused .frameTooShort) ∧
    (∀ q (p : Bytes), p.length < 4 ∨ p.take 4 ≠ [0x01#8, 0x41#8, 0x40#8, 0x00#8] →
      exec (.parseStatusCompact q p) s = .refused .notThisParsersPayload) ∧
    (∀ q (p : Bytes), p.length < 4 ∨ p.take 4 ≠ headerBytes s.params.hdrStatusRich →
      exec (.parseStatusRich q p) s = .refused .notThisParsersPayload) ∧
    (∀ q (p : Bytes), p.length < 4 ∨ p.take 4 = headerBytes s.params.hdrStatusRich →
      exec (.parseAck q p) s = .refused .notThisParsersPayload) ∧
    (∀ q (p : Bytes), p.length < 4 ∨ p.take 4 ≠ [0x01#8, 0xF7#8, 0xA3#8, 0x00#8] →
      exec (.parseCompletion q p) s = .refused .notThisParsersPayload) ∧
    (∀ m e h, 65535 < m ∨ 65535 < h → exec (.encStartHeat m e h) s = .refused .operandOutOfRange) ∧
    (∀ d m e h, 65535 < d ∨ 65535 < m ∨ 65535 < h →
      exec (.encDelayedStartBody d m e h) s = .refused .operandOutOfRange) ∧
    ∀ t, 255 < t → exec (.encSetMyTemp t) s = .refused .operandOutOfRange

/-- R125, R140, R196 as read in log 8: SPLIT of a string of no frame's length and DISPATCH of what is no Envelope are
refused; R232: so are DRAIN and DRAIN_STEP while a DRAIN is in progress (log 4). The model's choice. -/
def Obligations.ModelledDomainsRefuse : Prop :=
  ∀ s : State,
    (∀ f : Bytes, f.length < 6 ∨ 262 < f.length → exec (.split f) s = .refused .notAnEncodedFrame) ∧
    (∀ e : Envelope, e.len ≠ e.payload.length ∨ 256 < e.len → exec (.dispatch e) s = .refused .notAnEnvelope) ∧
    ∀ out, s.draining = some out →
      exec .drain s = .refused .drainInProgress ∧ exec .drainStep s = .refused .drainInProgress

/-! ### Wire rows -/

/-- R50, R92 (log 6): the rows ENV_MESSAGE and ENV_ACK complete with what DECODE returns for their frame. -/
def Obligations.EnvelopeRowsDecode : Prop :=
  ∀ (q lo hi c : Byte) (p : Bytes) (s : State),
    (∃ r, exec (.envMessage q lo hi c p) s = .next { s with response := r } ∧
      exec (.decode ([0xA5#8, 0x22#8, q, lo, hi, c] ++ p)) s = .next { s with response := r }) ∧
    ∃ r, exec (.envAck q lo hi c p) s = .next { s with response := r } ∧
      exec (.decode ([0xA5#8, 0x12#8, q, lo, hi, c] ++ p)) s = .next { s with response := r }

/-- R62, R69 (log 6): each payload-shape row completes with the FrameError when its frame fails DECODE, and otherwise with
what DISPATCH returns for the Envelope. -/
def Obligations.ShapeRowsReceive : Prop :=
  ∀ (q lo hi c : Byte) (h : Header) (k : Kind) (p : Bytes) (s : State),
    ReceivesFrame (.fStatusCompact q lo hi c p)
      ([0xA5#8, 0x22#8, q, lo, hi, c] ++ [0x01#8, 0x41#8, 0x40#8, 0x00#8] ++ p) s ∧
    ReceivesFrame (.fStatusRich q lo hi c p)
      ([0xA5#8, 0x12#8, q, lo, hi, c] ++ headerBytes s.params.hdrStatusRich ++ p) s ∧
    ReceivesFrame (.fCompletion q lo hi c p)
      ([0xA5#8, 0x22#8, q, lo, hi, c] ++ [0x01#8, 0xF7#8, 0xA3#8, 0x00#8] ++ p) s ∧
    ReceivesFrame (.fAckRecord q lo hi c h p) ([0xA5#8, 0x12#8, q, lo, hi, c] ++ headerBytes h ++ p) s ∧
    ReceivesFrame (.fUnrecognized k q lo hi c p)
      ([0xA5#8, (match k with | .message => 0x22#8 | .ack => 0x12#8), q, lo, hi, c] ++ p) s

/-- R62 rows 2 to 6 (log 6): with the default table, a payload-shape row whose frame is valid answers as the parser of its
shape does on the payload, and F_UNRECOGNIZED with the raw bytes. -/
def Obligations.ShapeRowsSelectTheirParser : Prop :=
  ∀ (e : Envelope) (h : Header) (body : Bytes) (lo hi : Byte) (s : State), ValidEnvelope e →
    lo.toNat + 256 * hi.toNat = e.len → s.params.dispatchTable = defaultDispatchTable →
    (e.kind = .message → e.payload = [0x01#8, 0x41#8, 0x40#8, 0x00#8] ++ body →
      exec (.fStatusCompact e.seq lo hi e.checksum body) s = exec (.parseStatusCompact e.seq e.payload) s) ∧
    (e.kind = .ack → e.payload = headerBytes s.params.hdrStatusRich ++ body →
      exec (.fStatusRich e.seq lo hi e.checksum body) s = exec (.parseStatusRich e.seq e.payload) s) ∧
    (e.kind = .message → e.payload = [0x01#8, 0xF7#8, 0xA3#8, 0x00#8] ++ body →
      exec (.fCompletion e.seq lo hi e.checksum body) s = exec (.parseCompletion e.seq e.payload) s) ∧
    (e.kind = .ack → h ≠ s.params.hdrStatusRich → e.payload = headerBytes h ++ body →
      exec (.fAckRecord e.seq lo hi e.checksum h body) s = exec (.parseAck e.seq e.payload) s) ∧
    (wellFormed s.params (.fUnrecognized e.kind e.seq lo hi e.checksum e.payload) = true →
      exec (.fUnrecognized e.kind e.seq lo hi e.checksum e.payload) s
        = .next { s with response := .parsed (.unrecognized e.kind e.seq e.payload) })

/-- R61, R62 row 6 (log 6): each command row completes with the FrameError when its frame fails DECODE, and otherwise with
what DISPATCH returns and the command's fields read from the body. -/
def Obligations.CommandRowsReceive : Prop :=
  ∀ (q lo hi c : Byte) (b : Bytes) (s : State),
    ReceivesCommand (.fStatusReq q lo hi c b)
      ([0xA5#8, 0x22#8, q, lo, hi, c] ++ [0x01#8, 0x40#8, 0x40#8, 0x00#8] ++ b) .statusReq s ∧
    ReceivesCommand (.fStartHeat q lo hi c b)
      ([0xA5#8, 0x22#8, q, lo, hi, c] ++ [0x01#8, 0xF0#8, 0xA3#8, 0x00#8] ++ b)
      (if b.length < 5 then .truncated
       else .startHeat
        { mode := (b.getD 0 0).toNat + 256 * (b.getD 1 0).toNat, holdEnable := b.getD 2 0 ≠ 0x00#8,
          holdSeconds := 256 * (b.getD 3 0).toNat + (b.getD 4 0).toNat }) s ∧
    ReceivesCommand (.fSetMyTemp q lo hi c b)
      ([0xA5#8, 0x22#8, q, lo, hi, c] ++ [0x01#8, 0xF3#8, 0xA3#8, 0x00#8] ++ b)
      (match b with | [] => .truncated | t :: _ => .setMyTemp t) s

/-- R99 for the start-heating builder: the frame that ENCODE makes of an encoded start-heating payload is read as the row
F_START_HEAT with the frame's fields, and that request completes with UNRECOGNIZED and the operands. That a bare frame is
a packet, that one of 10 bytes or more is read as its F_ row, and what the row returns are the model's choice
(logs 1, 7, 6). -/
def Obligations.StartHeatFrameRoundTrip : Prop :=
  ∀ (m h : Nat) (e : Bool) (seq : Byte) (s : State), m ≤ 65535 → h ≤ 65535 →
    s.params.dispatchTable = defaultDispatchTable →
    ∃ (p f : Bytes) (c : Byte), exec (.encStartHeat m e h) s = .next { s with response := .bytes p } ∧
      exec (.encode .message seq p) s = .next { s with response := .bytes f } ∧ f[5]? = some c ∧
      decode s.params f = .ok (.fStartHeat seq 0x09#8 0x00#8 c (p.drop 4)) ∧
      exec (.fStartHeat seq 0x09#8 0x00#8 c (p.drop 4)) s
        = .next { s with response := .command (.unrecognized .message seq p) (.startHeat ⟨m, e, h⟩) }

/-! ### Encoding and stepping -/

/-- R50, R61, R62, R68, with the model's operand layout (log 1) and view bytes (log 7): decoding the packet of a
well-formed request gives the request back, for every row of the table and all parameters. -/
def Obligations.DecodeEncodeRoundTrip : Prop :=
  ∀ (p : Params) (i : Instr), wellFormed p i = true → decode p (encode p i) = .ok i

/-- R61, R62, R69, with the model's choice of the row where several match (log 7) and of a frame as a packet (log 1): a
bare frame that holds a command header is read as the F_ row whose pattern it matches, the exact keys before the fallback
rows; a bare frame of 6 to 9 bytes as its ENV_ row; the view byte `0xE0` asks for the ENV_ row of any frame, and `0xE1`
for the F_ row, which is F_UNRECOGNIZED for a payload without a header. -/
def Obligations.BareFramesReadAsTheirRow : Prop :=
  ∀ (p : Params) (q lo hi c : Byte) (h : Header) (b : Bytes),
    decode p ([0xA5#8, 0x22#8, q, lo, hi, c, 0x01#8, 0x41#8, 0x40#8, 0x00#8] ++ b) = .ok (.fStatusCompact q lo hi c b) ∧
    decode p ([0xA5#8, 0x22#8, q, lo, hi, c, 0x01#8, 0xF7#8, 0xA3#8, 0x00#8] ++ b) = .ok (.fCompletion q lo hi c b) ∧
    decode p ([0xA5#8, 0x22#8, q, lo, hi, c, 0x01#8, 0x40#8, 0x40#8, 0x00#8] ++ b) = .ok (.fStatusReq q lo hi c b) ∧
    decode p ([0xA5#8, 0x22#8, q, lo, hi, c, 0x01#8, 0xF0#8, 0xA3#8, 0x00#8] ++ b) = .ok (.fStartHeat q lo hi c b) ∧
    decode p ([0xA5#8, 0x22#8, q, lo, hi, c, 0x01#8, 0xF3#8, 0xA3#8, 0x00#8] ++ b) = .ok (.fSetMyTemp q lo hi c b) ∧
    decode p ([0xA5#8, 0x12#8, q, lo, hi, c] ++ headerBytes h ++ b) = .ok
      (if h = p.hdrStatusRich then .fStatusRich q lo hi c b else .fAckRecord q lo hi c h b) ∧
    (wellFormed p (.fUnrecognized .message q lo hi c (headerBytes h ++ b)) = true →
      decode p ([0xA5#8, 0x22#8, q, lo, hi, c] ++ headerBytes h ++ b)
        = .ok (.fUnrecognized .message q lo hi c (headerBytes h ++ b))) ∧
    (b.length < 4 →
      decode p ([0xA5#8, 0x22#8, q, lo, hi, c] ++ b) = .ok (.envMessage q lo hi c b) ∧
      decode p ([0xA5#8, 0x12#8, q, lo, hi, c] ++ b) = .ok (.envAck q lo hi c b) ∧
      decode p ([0xE1#8, 0xA5#8, 0x22#8, q, lo, hi, c] ++ b) = .ok (.fUnrecognized .message q lo hi c b) ∧
      decode p ([0xE1#8, 0xA5#8, 0x12#8, q, lo, hi, c] ++ b) = .ok (.fUnrecognized .ack q lo hi c b)) ∧
    decode p ([0xE0#8, 0xA5#8, 0x22#8, q, lo, hi, c] ++ b) = .ok (.envMessage q lo hi c b) ∧
    decode p ([0xE0#8, 0xA5#8, 0x12#8, q, lo, hi, c] ++ b) = .ok (.envAck q lo hi c b) ∧
    ∀ k : Byte, decode p ([0xE1#8, 0xA5#8, k, q, lo, hi, c] ++ headerBytes h ++ b)
      = decode p ([0xA5#8, k, q, lo, hi, c] ++ headerBytes h ++ b)

/-- R68 and the literal frames V1 to V5 of 95_test_vectors.md section 1: five OPSEL words, an unassigned one, the table
patterns of ENV_MESSAGE and F_COMPLETION, and the five source vectors decode to what they stand for. A sanity statement.
That a frame is a packet and that a table word is filled up with zero operands are the model's choice (log 1), and so is
which row a bare frame is read as (log 7). -/
def Obligations.SampleWordsDecode : Prop :=
  decodeTableWord 8 0b00000 = some (.cksum []) ∧
  decodeTableWord 8 0b00100 = some .clear ∧
  decodeTableWord 8 0b00101 = some (.append []) ∧
  decodeTableWord 8 0b00111 = some .drain ∧
  decodeTableWord 8 0b01110 = some .encStatusReq ∧
  decodeTableWord 8 0b10100 = none ∧
  decodeTableWord 48 0x0000000022A5 = some (.envMessage 0 0 0 0 []) ∧
  decodeTableWord 80 0x00A3F7010000000022A5 = some (.fCompletion 0 0 0 0 []) ∧
  decode defaultParams [0xA5#8, 0x22#8, 0x41#8, 0x04#8, 0x00#8, 0x72#8, 0x01#8, 0x40#8, 0x40#8, 0x00#8]
    = .ok (.fStatusReq 0x41#8 0x04#8 0x00#8 0x72#8 []) ∧
  decode defaultParams [0xA5#8, 0x22#8, 0x03#8, 0x09#8, 0x00#8, 0x95#8, 0x01#8, 0xF0#8, 0xA3#8, 0x00#8, 0x03#8, 0x00#8,
      0x00#8, 0x00#8, 0x00#8]
    = .ok (.fStartHeat 0x03#8 0x09#8 0x00#8 0x95#8 [0x03#8, 0x00#8, 0x00#8, 0x00#8, 0x00#8]) ∧
  decode defaultParams [0xA5#8, 0x22#8, 0x1C#8, 0x05#8, 0x00#8, 0xCD#8, 0x01#8, 0xF3#8, 0xA3#8, 0x00#8, 0xB3#8]
    = .ok (.fSetMyTemp 0x1C#8 0x05#8 0x00#8 0xCD#8 [0xB3#8]) ∧
  decode defaultParams [0xA5#8, 0x22#8, 0xB5#8, 0x0C#8, 0x00#8, 0xB3#8, 0x01#8, 0x41#8, 0x40#8, 0x00#8, 0x00#8, 0x00#8,
      0xB3#8, 0x8F#8, 0x00#8, 0x00#8, 0x00#8, 0x00#8]
    = .ok (.fStatusCompact 0xB5#8 0x0C#8 0x00#8 0xB3#8
        [0x00#8, 0x00#8, 0xB3#8, 0x8F#8, 0x00#8, 0x00#8, 0x00#8, 0x00#8]) ∧
  decode defaultParams [0xA5#8, 0x22#8, 0x98#8, 0x05#8, 0x00#8, 0xE0#8, 0x01#8, 0xF7#8, 0xA3#8, 0x00#8, 0x20#8]
    = .ok (.fCompletion 0x98#8 0x05#8 0x00#8 0xE0#8 [0x20#8])

/-- With no DRAIN in progress, a step takes the oldest request packet from the port and is exec of the request it stands
for (R37; log 1). -/
def Obligations.StepRunsDecodedRequest : Prop :=
  ∀ (s : State) (packet : Bytes) (rest : List Bytes) (i : Instr), s.draining = none → s.port = packet :: rest →
    decode s.params packet = .ok i → step s = exec i { s with port := rest }

/-- R68: an OPSEL from `10100` to `11111` selects nothing and is refused by name, whatever follows it. The packet it stands
in is the model's (log 1). -/
def Obligations.UnassignedOpselRefused : Prop :=
  ∀ (s : State) (op : Byte) (xs : Bytes) (rest : List Bytes), 20 ≤ op.toNat → op.toNat ≤ 31 → s.draining = none →
    s.port = (op :: xs) :: rest → step s = .refused (.badRequest .unknownOpsel)

/-- R211: between operations the block holds BUF and does nothing: a step with no request and no DRAIN in progress is the
identity (log 1). -/
def Obligations.IdleStepHoldsState : Prop :=
  ∀ s : State, s.draining = none → s.port = [] → step s = .next s

/-! ### The whole machine -/

/-- R19, R220: after reset BUF is empty and no address reads a value; CLEAR and a new connection bring BUF to the same
content from any state; a new connection leaves the parameters as they are. -/
def Obligations.ResetEmptiesBuffer : Prop :=
  State.reset.buf = [] ∧ (∀ a, State.reset.buf.read a = none) ∧
  ∀ s : State, (∃ t, exec .clear s = .next t ∧ t.buf = State.reset.buf) ∧
    (newConnection s).buf = State.reset.buf ∧ (newConnection s).params = s.params

/-- The invariant holds at reset (R19, R20); the parameters and the DRAIN in progress have the model's values there (logs 3
and 4). -/
def Obligations.InvariantAtReset : Prop := Inv State.reset

/-- R20, first sentence, and the model's own part of the invariant (log 4): every step from a state with the invariant
to a next state keeps it. -/
def Obligations.StepKeepsInvariant : Prop :=
  ∀ s t : State, Inv s → step s = .next t → Inv t

/-- R45 and the end of part 1 of 93_implementation_defined.md: no step and no request ever faults, in any state: no read
of BUF goes beyond LEN. -/
def Obligations.NothingFaults : Prop :=
  ∀ (s : State) (f : Fault), step s ≠ .fault f ∧ ∀ i, exec i s ≠ .fault f

/-- R15: the parameters are fixed for the life of an instance: no request and no step writes them (log 3). -/
def Obligations.ParametersNeverChange : Prop :=
  ∀ s t : State, (∀ i, exec i s = .next t → t.params = s.params) ∧ (step s = .next t → t.params = s.params)

/-- R10: every request but CLEAR, APPEND, DRAIN_STEP and DRAIN changes nothing but the returned value; those four change
nothing but BUF, the returned value and, for DRAIN, the DRAIN in progress. That CLEAR and APPEND, which return nothing,
leave `noResult` as the returned value is the model's choice (log 2). -/
def Obligations.OnlyBufferOperationsWrite : Prop :=
  ∀ (i : Instr) (s t : State), exec i s = .next t →
    (touchesBuffer i = false → t = { s with response := t.response }) ∧
    (i ≠ .drain → t = { s with buf := t.buf, response := t.response }) ∧
    t = { s with buf := t.buf, response := t.response, draining := t.draining } ∧
    (i = .clear ∨ (∃ c, i = .append c) → t.response = .noResult)

/-- R10, R34, R221: the answer of every request but those four does not depend on BUF, on what was returned before, or on
what is waiting. -/
def Obligations.PureRequestsReadNoState : Prop :=
  ∀ (i : Instr) (s s' : State), touchesBuffer i = false → s.params = s'.params →
    (∀ r, exec i s = .next { s with response := r } ↔ exec i s' = .next { s' with response := r }) ∧
    ∀ why, exec i s = .refused why ↔ exec i s' = .refused why

/-- R38 (log 4): with `DRAIN_ATOMIC = false` and no other operation chosen between its steps, a DRAIN ends, and ends as
the atomic DRAIN does. -/
def Obligations.UninterruptedDrainIsAtomic : Prop :=
  ∀ (s u : State) (rest : List Bytes), s.draining = none → s.params.drainAtomic = false → s.sched = [] →
    s.port = encode s.params .drain :: rest →
    exec .drain { s with params := { s.params with drainAtomic := true } } = .next u →
    ∃ n, Sys2Proof.core.run n s = .next { s with buf := u.buf, port := rest, response := u.response }

/-- R37, R38 (log 4): while a DRAIN is in progress, a choice of the environment lets the next request, if it is no second
drainer, fall between two steps. Otherwise (no such choice, no request waiting, a packet that is no request, or a second
drainer) the step is one DRAIN_STEP, and the choice, if there is one, is used up. -/
def Obligations.RequestsFallBetweenDrainSteps : Prop :=
  ∀ (s : State) (out : List Envelope), s.draining = some out →
    (∀ packet ports choices i, s.sched = true :: choices → s.port = packet :: ports → decode s.params packet = .ok i →
      isDrainer i = false → step s = exec i { s with port := ports, sched := choices }) ∧
    ((∀ packet ports choices i, s.sched = true :: choices → s.port = packet :: ports → decode s.params packet = .ok i →
        isDrainer i = true) →
      ∃ t r, exec .drainStep { s with draining := none } = .next t ∧ t.response = .step r ∧
        step s = .next { s with
          buf := t.buf
          sched := s.sched.tail
          draining := (match r with | .stop => none | .cont => some out | .emit e => some (out ++ [e]))
          response := (match r with | .stop => .envelopes out | .cont => .noResult | .emit _ => .noResult) })

/-- Every request whose operands lie in its domain completes, in every state; DRAIN and DRAIN_STEP need that no DRAIN is
in progress (R196, R232). -/
def Obligations.WellFormedRequestsComplete : Prop :=
  ∀ (i : Instr) (s : State), wellFormed s.params i = true → (isDrainer i = true → s.draining = none) →
    ∃ t, exec i s = .next t ∧ t = { s with buf := t.buf, response := t.response, draining := t.draining }
end

