-- ==== Sys2Proof/Laws/Checksum.lean ====
section
/-! SUPPORT. The fold as a sum: what CKSUM and FRAME_CK compute, and when a frame's checksum byte is good. -/

namespace Sys2Proof.Machine

@[simp] theorem byteSum_nil : byteSum [] = 0 := rfl

@[simp] theorem byteSum_cons (b : Byte) (s : Bytes) : byteSum (b :: s) = b.toNat + byteSum s := by simp [byteSum]

@[simp] theorem byteSum_append (s t : Bytes) : byteSum (s ++ t) = byteSum s + byteSum t := by simp [byteSum]

/-- The fold from any seed subtracts the sum of the bytes. -/
theorem foldl_sub_eq (s : Bytes) (a : Byte) :
    s.foldl (fun acc b => acc - b) a = a - BitVec.ofNat 8 (byteSum s) := by
  induction s generalizing a with
  | nil => simp
  | cons b s ih =>
    rw [List.foldl_cons, ih, byteSum_cons]
    bv_omega

/-- CKSUM is the negated sum (the two's-complement reading of rule R81). -/
theorem cksum_eq_neg (s : Bytes) : cksum s = - BitVec.ofNat 8 (byteSum s) := by
  simp [cksum, foldl_sub_eq, ckSeed]

/-- FRAME_CK of a frame written out: the checksum byte does not matter, the placeholder counts 1. -/
theorem frameCk_eq_neg (a b c d e x : Byte) (rest : Bytes) :
    frameCk (a :: b :: c :: d :: e :: x :: rest)
      = - BitVec.ofNat 8 (byteSum [a, b, c, d, e] + 1 + byteSum rest) := by
  simp only [frameCk, List.set_cons_succ, List.set_cons_zero, cksum_eq_neg, ckPlaceholder, byteSum_cons, byteSum_nil]
  congr 2
  simp
  omega

/-- A frame's checksum byte is its FRAME_CK exactly when the sum of all its bytes is `0xFF` modulo 256. -/
theorem frameCk_eq_iff (a b c d e x : Byte) (rest : Bytes) :
    frameCk (a :: b :: c :: d :: e :: x :: rest) = x
      ↔ byteSum (a :: b :: c :: d :: e :: x :: rest) % 256 = 255 := by
  rw [frameCk_eq_neg]
  simp only [byteSum_cons, byteSum_nil]
  constructor
  · intro h
    have h' := congrArg BitVec.toNat h
    simp only [BitVec.toNat_neg, BitVec.toNat_ofNat] at h'
    have := x.isLt
    omega
  · intro h
    apply BitVec.eq_of_toNat_eq
    simp only [BitVec.toNat_neg, BitVec.toNat_ofNat]
    have := x.isLt
    omega

end Sys2Proof.Machine
end

