-- ==== Sys2Proof/Laws/Envelope.lean ====
section
/-! SUPPORT. What the envelope codec does: DECODE succeeds on exactly the valid frames, ENCODE builds one. -/

namespace Sys2Proof.Machine

theorem le16_bytes (v : Nat) (h : v ≤ 65535) : le16 (loByte v) (hiByte v) = v := by
  simp only [le16, loByte, hiByte, BitVec.toNat_ofNat]
  omega

theorem be16_bytes (v : Nat) (h : v ≤ 65535) : be16 (hiByte v) (loByte v) = v := by
  simp only [be16, loByte, hiByte, BitVec.toNat_ofNat]
  omega

/-- The two bytes of a 16-bit number give back the bytes. -/
theorem loByte_le16 (lo hi : Byte) : loByte (le16 lo hi) = lo := by
  apply BitVec.eq_of_toNat_eq
  have := lo.isLt
  simp only [le16, loByte, BitVec.toNat_ofNat]
  omega

theorem hiByte_le16 (lo hi : Byte) : hiByte (le16 lo hi) = hi := by
  apply BitVec.eq_of_toNat_eq
  have := lo.isLt
  have := hi.isLt
  simp only [le16, hiByte, BitVec.toNat_ofNat]
  omega

@[simp] theorem kindOfCode_kindCode (k : Kind) : kindOfCode (kindCode k) = some k := by cases k <;> rfl

theorem kindOfCode_eq_some {b : Byte} {k : Kind} (h : kindOfCode b = some k) : b = kindCode k := by
  unfold kindOfCode at h
  split at h
  · next hb => simp at h; exact h ▸ hb
  · split at h
    · next hb => simp at h; exact h ▸ hb
    · simp at h

/-- The frame of an Envelope in the model's own words. -/
theorem frameBytes_eq (e : Envelope) :
    frameBytes e = wireFrame e.kind e.seq (loByte e.len) (hiByte e.len) e.checksum e.payload := by
  cases hk : e.kind <;> simp [frameBytes, wireFrame, kindCode, magic, loByte, hiByte, hk]

/-- DECODE succeeds with `e` exactly on the valid frame of `e`. -/
theorem decodeFrame_ok_iff (f : Bytes) (e : Envelope) : decodeFrame f = .ok e ↔ ValidFrame f e := by
  constructor
  · intro h
    unfold decodeFrame at h
    split at h
    · next m k seq lo hi ck payload =>
      split at h
      · simp at h
      · next hm =>
        split at h
        · simp at h
        · next kind hkind =>
          split at h
          · simp at h
          · next hcap =>
            split at h
            · simp at h
            · next hlen =>
              split at h
              · simp at h
              · next hck =>
                simp only [Except.ok.injEq] at h
                simp only [ne_eq, not_not] at hm hck hlen
                have hlen' : payload.length = le16 lo hi := by omega
                have hk := kindOfCode_eq_some hkind
                have hf : m :: k :: seq :: lo :: hi :: ck :: payload = frameBytes e := by
                  subst h hm hk
                  simp [frameBytes_eq, wireFrame, loByte_le16, hiByte_le16]
                refine ⟨hf, ?_, ?_, ?_⟩
                · subst h; exact hlen'.symm
                · subst h; simp only [maxPayload] at hcap; simp only; omega
                · rw [← hf]; exact (frameCk_eq_iff ..).mp hck
    · simp at h
  · rintro ⟨hf, hlen, hcap, hsum⟩
    rw [← hf] at hsum
    rw [frameBytes_eq] at hf
    subst hf
    simp only [wireFrame] at hsum ⊢
    have hle : le16 (loByte e.len) (hiByte e.len) = e.len := le16_bytes _ (by omega)
    simp only [decodeFrame, kindOfCode_kindCode, hle, ne_eq, not_true_eq_false, if_false, maxPayload]
    rw [if_neg (by omega), if_neg (by omega), if_neg (by simpa using (frameCk_eq_iff ..).mpr hsum)]

/-- The checksum byte ENCODE writes. -/
def encodedChecksum (kind : Kind) (seq : Byte) (payload : Bytes) : Byte :=
  cksum (wireFrame kind seq (loByte payload.length) (hiByte payload.length) ckPlaceholder payload)

/-- The Envelope of the frame ENCODE builds. -/
def encodedEnvelope (kind : Kind) (seq : Byte) (payload : Bytes) : Envelope :=
  { kind, seq, len := payload.length, checksum := encodedChecksum kind seq payload, payload }

theorem encodeFrame_eq (kind : Kind) (seq : Byte) (payload : Bytes) :
    encodeFrame kind seq payload
      = wireFrame kind seq (loByte payload.length) (hiByte payload.length) (encodedChecksum kind seq payload) payload := by
  simp [encodeFrame, encodedChecksum, wireFrame]

/-- ENCODE builds the valid frame of its operands. -/
theorem encodeFrame_valid (kind : Kind) (seq : Byte) (payload : Bytes) (h : payload.length ≤ 256) :
    ValidFrame (encodeFrame kind seq payload) (encodedEnvelope kind seq payload) := by
  have hf : encodeFrame kind seq payload = frameBytes (encodedEnvelope kind seq payload) := by
    rw [encodeFrame_eq, frameBytes_eq]; rfl
  refine ⟨hf, rfl, h, ?_⟩
  rw [← hf, encodeFrame_eq]
  simp only [wireFrame]
  rw [← frameCk_eq_iff]
  simp [frameCk, encodedChecksum, wireFrame]

/-- Two valid frames of Envelopes with the same kind, seq and payload are the same: ENCODE gives back the frame. -/
theorem encodeFrame_of_valid {f : Bytes} {e : Envelope} (h : ValidFrame f e) :
    encodeFrame e.kind e.seq e.payload = f := by
  obtain ⟨hf, hlen, hcap, hsum⟩ := h
  rw [← hf, hf, frameBytes_eq] at hsum
  have hck := (frameCk_eq_iff _ _ _ _ _ _ _).mpr hsum
  rw [hf, frameBytes_eq, encodeFrame_eq, ← hlen]
  have : encodedChecksum e.kind e.seq e.payload = e.checksum := by
    rw [← hck]
    simp [frameCk, encodedChecksum, wireFrame, hlen]
  rw [this]

end Sys2Proof.Machine
end

