-- ==== Sys2Proof/Laws/Memory.lean ====
section
/-! SUPPORT. The memory: its canonical form, that every operation on it keeps the form, and what its guarded reads
answer. -/

namespace Sys2Proof.Machine

theorem Memory.wf_iff (m : Memory) : m.wf = true ↔ m.length ≤ 512 := by
  unfold Memory.wf bufCap
  exact decide_eq_true_iff

theorem reset_memory_wf : State.reset.buf.wf = true := rfl

theorem emptied_wf : Memory.wf emptied = true := rfl

/-- Appending keeps the form whatever the memory was, when the chunk itself fits. -/
theorem appendChunk_wf (m : Memory) (chunk : Bytes) (h : chunk.length ≤ 512) : (appendChunk m chunk).wf = true := by
  rw [Memory.wf_iff]
  unfold appendChunk
  split
  · simpa [emptied] using h
  · next hle => simpa [bufCap] using hle

theorem consume_wf (k : Nat) (m : Memory) (h : m.wf = true) : (consume k m).wf = true := by
  rw [Memory.wf_iff] at *
  simp only [consume, List.length_drop]
  omega

theorem slide_wf (m : Memory) (h : m.wf = true) : (slide m).wf = true := consume_wf 1 m h

/-- The scan never grows the memory. -/
theorem scan_length_le (m : Memory) : (scan m).length ≤ m.length := (List.dropWhile_sublist _).length_le

theorem scan_wf (m : Memory) (h : m.wf = true) : (scan m).wf = true := by
  rw [Memory.wf_iff] at *
  exact (scan_length_le m).trans h

/-- A read of one byte below LEN answers it. -/
theorem memByte_of_lt {m : Memory} {a : Nat} (h : a < m.length) : memByte m a = .ok m[a] := by
  simp [memByte, h]

/-- A read that stays within LEN answers the bytes. -/
theorem memRead_of_le {m : Memory} {a n : Nat} (h : a + n ≤ m.length) : memRead m a n = .ok ((m.drop a).take n) := by
  simp [memRead, h]

/-- The memory as (address, byte) pairs: a pair is listed exactly when the byte is read at that address. -/
theorem Memory.mem_cells_iff (m : Memory) (a : Nat) (b : Byte) : (a, b) ∈ m.cells ↔ m.read a = some b := by
  simp only [Memory.cells, Memory.read, List.mem_iff_getElem?, List.getElem?_zip_eq_some]
  constructor
  · rintro ⟨i, h₁, h₂⟩
    by_cases hi : i < m.length
    · rw [List.getElem?_range hi] at h₁
      simp only [Option.some.injEq] at h₁
      exact h₁ ▸ h₂
    · rw [List.getElem?_eq_none (by omega)] at h₂
      simp at h₂
  · intro h
    have ha : a < m.length := (List.getElem?_eq_some_iff.mp h).1
    exact ⟨a, by simp [List.getElem?_range ha], h⟩

/-- The addresses of the pairs rise strictly, one pair for each address below LEN. -/
theorem Memory.cells_addresses (m : Memory) : m.cells.map Prod.fst = List.range m.length := by
  simp [Memory.cells, List.map_fst_zip]

end Sys2Proof.Machine
end

