-- ==== Sys2Proof/Laws/Payload.lean ====
section
/-! SUPPORT. The command header and the range check: what they say in terms of lengths and bytes. -/

namespace Sys2Proof.Machine

/-- A payload has a header exactly when it has four bytes, and those are the header's. -/
theorem headerOf_eq_some_iff {p : Bytes} {h : Header} :
    headerOf p = some h ↔ 4 ≤ p.length ∧ p.take 4 = headerBytes h := by
  match p with
  | [] => simp [headerOf]
  | [_] => simp [headerOf]
  | [_, _] => simp [headerOf]
  | [_, _, _] => simp [headerOf]
  | _ :: _ :: _ :: _ :: _ => cases h; simp [headerOf, headerBytes]

theorem headerOf_eq_none_iff {p : Bytes} : headerOf p = none ↔ p.length < 4 := by
  match p with
  | [] => simp [headerOf]
  | [_] => simp [headerOf]
  | [_, _] => simp [headerOf]
  | [_, _, _] => simp [headerOf]
  | _ :: _ :: _ :: _ :: _ => simp [headerOf]

@[simp] theorem headerBytes_inj {a b : Header} : headerBytes a = headerBytes b ↔ a = b := by
  cases a; cases b; simp [headerBytes]

/-- The range check of two readings as comparisons of numbers (rule R142). -/
theorem inTempRange_pair (a b : Byte) : (inTempRange a && inTempRange b)
    = decide (¬(a.toNat < 40 ∨ 230 < a.toNat ∨ b.toNat < 40 ∨ 230 < b.toNat)) := by
  rw [Bool.eq_iff_iff]
  simp only [inTempRange, Bool.and_eq_true, decide_eq_true_eq, not_or, Nat.not_lt]
  tauto

end Sys2Proof.Machine
end

