-- ==== Sys2Proof/Laws/PerInstr.lean ====
section
/-! SUPPORT. Per-instruction statements. Family RowPattern: the bytes of every request carry the bits that its row of
opcode_table.json fixes (rules R68, R69). -/

namespace Sys2Proof.Laws

open Sys2Proof Sys2Proof.Machine

/-- The request's bytes match its row's pattern, for all parameters. -/
def RowPattern.Statement (i : Instr) : Prop :=
  ∀ p : Params, matchesPattern (rowPattern p i) (rowBytes p i) = true

theorem RowPattern.cksum (s : Bytes) : RowPattern.Statement (.cksum s) := fun _ => rfl

theorem RowPattern.frameCk (f : Bytes) : RowPattern.Statement (.frameCk f) := fun _ => rfl

theorem RowPattern.encode (kind : Kind) (seq : Byte) (payload : Bytes) :
    RowPattern.Statement (.encode kind seq payload) := fun _ => rfl

theorem RowPattern.decode (s : Bytes) : RowPattern.Statement (.decode s) := fun _ => rfl

theorem RowPattern.clear : RowPattern.Statement .clear := fun _ => rfl

theorem RowPattern.append (chunk : Bytes) : RowPattern.Statement (.append chunk) := fun _ => rfl

theorem RowPattern.drainStep : RowPattern.Statement .drainStep := fun _ => rfl

theorem RowPattern.drain : RowPattern.Statement .drain := fun _ => rfl

theorem RowPattern.split (f : Bytes) : RowPattern.Statement (.split f) := fun _ => rfl

theorem RowPattern.dispatch (env : Envelope) : RowPattern.Statement (.dispatch env) := fun _ => rfl

theorem RowPattern.parseStatusCompact (seq : Byte) (p : Bytes) :
    RowPattern.Statement (.parseStatusCompact seq p) := fun _ => rfl

theorem RowPattern.parseStatusRich (seq : Byte) (p : Bytes) :
    RowPattern.Statement (.parseStatusRich seq p) := fun _ => rfl

theorem RowPattern.parseAck (seq : Byte) (p : Bytes) : RowPattern.Statement (.parseAck seq p) :=
  fun _ => rfl

theorem RowPattern.parseCompletion (seq : Byte) (p : Bytes) :
    RowPattern.Statement (.parseCompletion seq p) := fun _ => rfl

theorem RowPattern.encStatusReq : RowPattern.Statement .encStatusReq := fun _ => rfl

theorem RowPattern.encStartHeat (mode : Nat) (holdEnable : Bool) (holdSeconds : Nat) :
    RowPattern.Statement (.encStartHeat mode holdEnable holdSeconds) := fun _ => rfl

theorem RowPattern.decStartHeatBody (b : Bytes) : RowPattern.Statement (.decStartHeatBody b) :=
  fun _ => rfl

theorem RowPattern.encDelayedStartBody (delaySeconds mode : Nat) (holdEnable : Bool) (holdSeconds : Nat) :
    RowPattern.Statement (.encDelayedStartBody delaySeconds mode holdEnable holdSeconds) :=
  fun _ => rfl

theorem RowPattern.decDelayedStartBody (b : Bytes) : RowPattern.Statement (.decDelayedStartBody b) :=
  fun _ => rfl

theorem RowPattern.encSetMyTemp (t : Nat) : RowPattern.Statement (.encSetMyTemp t) := fun _ => rfl

section
variable (seq lenLo lenHi checksum : Byte)

theorem RowPattern.envMessage (payload : Bytes) :
    RowPattern.Statement (.envMessage seq lenLo lenHi checksum payload) := fun _ => rfl

theorem RowPattern.envAck (payload : Bytes) :
    RowPattern.Statement (.envAck seq lenLo lenHi checksum payload) := fun _ => rfl

theorem RowPattern.fStatusCompact (body : Bytes) :
    RowPattern.Statement (.fStatusCompact seq lenLo lenHi checksum body) := fun _ => rfl

theorem RowPattern.fStatusRich (body : Bytes) :
    RowPattern.Statement (.fStatusRich seq lenLo lenHi checksum body) :=
  fun p => by simp [rowPattern, rowBytes, wireFrame, headerBytes, matchesPattern, magic, kindCode]

theorem RowPattern.fCompletion (body : Bytes) :
    RowPattern.Statement (.fCompletion seq lenLo lenHi checksum body) := fun _ => rfl

theorem RowPattern.fAckRecord (header : Header) (body : Bytes) :
    RowPattern.Statement (.fAckRecord seq lenLo lenHi checksum header body) := fun _ => rfl

theorem RowPattern.fStatusReq (body : Bytes) :
    RowPattern.Statement (.fStatusReq seq lenLo lenHi checksum body) := fun _ => rfl

theorem RowPattern.fStartHeat (body : Bytes) :
    RowPattern.Statement (.fStartHeat seq lenLo lenHi checksum body) := fun _ => rfl

theorem RowPattern.fSetMyTemp (body : Bytes) :
    RowPattern.Statement (.fSetMyTemp seq lenLo lenHi checksum body) := fun _ => rfl

theorem RowPattern.fUnrecognized (kind : Kind) (payload : Bytes) :
    RowPattern.Statement (.fUnrecognized kind seq lenLo lenHi checksum payload) := by
  intro _
  cases kind <;> rfl

end

end Sys2Proof.Laws
end

