-- ==== Sys2Proof/Laws/Reassembler.lean ====
section
/-! SUPPORT. What the reassembler does: the scan, all that one DRAIN_STEP can do, and the DRAIN loop without its fuel. -/

namespace Sys2Proof.Machine

/-- The scan drops a prefix without a magic byte. -/
theorem scan_split (m : Memory) : ∃ g, m = g ++ scan m ∧ magic ∉ g := by
  refine ⟨m.takeWhile (fun b => b ≠ magic), (List.takeWhile_append_dropWhile ..).symm, ?_⟩
  intro h
  have := List.mem_takeWhile_imp h
  simp at this

/-- The scan leaves nothing, or a magic byte at the head. -/
theorem scan_nil_or_magic (m : Memory) : scan m = [] ∨ ∃ t, scan m = magic :: t := by
  induction m with
  | nil => exact .inl rfl
  | cons b m ih =>
    by_cases h : b = magic
    · exact .inr ⟨m, by simp [scan, h]⟩
    · simpa [scan, h] using ih

/-- Garbage without a magic byte is discarded up to the magic. -/
theorem scan_append_magic {g : Bytes} (t : Bytes) (h : magic ∉ g) : scan (g ++ magic :: t) = magic :: t := by
  induction g with
  | nil => simp [scan]
  | cons b g ih =>
    simp only [List.mem_cons, not_or] at h
    have hb : b ≠ magic := fun e => h.1 e.symm
    simpa [scan, hb] using ih h.2

/-- A buffer without a magic byte is discarded whole. -/
theorem scan_of_not_mem {g : Bytes} (h : magic ∉ g) : scan g = [] := by
  induction g with
  | nil => rfl
  | cons b g ih =>
    simp only [List.mem_cons, not_or] at h
    have hb : b ≠ magic := fun e => h.1 e.symm
    simpa [scan, hb] using ih h.2

/-- A buffer that begins with the magic is left alone by the scan. -/
theorem scan_magic_cons (t : Bytes) : scan (magic :: t) = magic :: t := by simp [scan]

/-- DRAIN_STEP on the scanned buffer: every guarded read answers. -/
theorem drainStep_eq (m : Memory) :
    drainStep m =
      (if (scan m).length < 6 then .ok (.stop, scan m)
      else if (scan m).length < 6 + le16 ((scan m).getD 3 0) ((scan m).getD 4 0) then .ok (.stop, scan m)
      else
        match decodeFrame ((scan m).take (6 + le16 ((scan m).getD 3 0) ((scan m).getD 4 0))) with
        | .error _ => .ok (.cont, (scan m).drop 1)
        | .ok e => .ok (.emit e, (scan m).drop (6 + le16 ((scan m).getD 3 0) ((scan m).getD 4 0)))) := by
  unfold drainStep
  by_cases h6 : (scan m).length < 6
  · simp [h6, envLen]
  · have h3 : 3 < (scan m).length := by omega
    have h4 : 4 < (scan m).length := by omega
    simp only [envLen, h6, if_false, memByte_of_lt h3, memByte_of_lt h4, gt_iff_lt, List.getD_eq_getElem _ _ h3,
      List.getD_eq_getElem _ _ h4]
    by_cases hn : (scan m).length < 6 + le16 (scan m)[3] (scan m)[4]
    · simp only [hn, if_true]
    · simp only [hn, if_false, memRead_of_le (show 0 + (6 + le16 (scan m)[3] (scan m)[4]) ≤ (scan m).length by omega),
        List.drop_zero]
      cases decodeFrame ((scan m).take (6 + le16 (scan m)[3] (scan m)[4])) <;> simp [slide, consume]

/-- All that one DRAIN_STEP can do (rule R113): stop with the head pending, slide past a magic whose complete window
fails DECODE, or emit the valid frame at the head. It never faults. -/
theorem drainStep_cases (m : Memory) : ∃ r m', drainStep m = .ok (r, m') ∧
    ((r = .stop ∧ m' = scan m ∧ HeadPending (scan m)) ∨
      (r = .cont ∧ (∃ err, decodeFrame ((scan m).take (6 + le16 ((scan m).getD 3 0) ((scan m).getD 4 0))) = .error err) ∧
        6 + le16 ((scan m).getD 3 0) ((scan m).getD 4 0) ≤ (scan m).length ∧ m' = (scan m).drop 1) ∨
      ∃ e f, r = .emit e ∧ ValidFrame f e ∧ scan m = f ++ m') := by
  have hmagic : scan m ≠ [] → (scan m)[0]? = some 0xA5#8 := by
    intro hne
    obtain h | ⟨t, h⟩ := scan_nil_or_magic m
    · exact absurd h hne
    · simp [h, magic]
  rw [drainStep_eq]
  by_cases h6 : (scan m).length < 6
  · rw [if_pos h6]
    refine ⟨_, _, rfl, .inl ⟨rfl, rfl, ?_⟩⟩
    by_cases hne : scan m = []
    · exact .inl hne
    · exact .inr ⟨hmagic hne, .inl h6⟩
  · rw [if_neg h6]
    by_cases hn : (scan m).length < 6 + le16 ((scan m).getD 3 0) ((scan m).getD 4 0)
    · rw [if_pos hn]
      have hne : scan m ≠ [] := by intro h; simp [h] at h6
      exact ⟨_, _, rfl, .inl ⟨rfl, rfl, .inr ⟨hmagic hne, .inr (by simpa [le16] using hn)⟩⟩⟩
    · rw [if_neg hn]
      cases hd : decodeFrame ((scan m).take (6 + le16 ((scan m).getD 3 0) ((scan m).getD 4 0))) with
      | error err => exact ⟨_, _, rfl, .inr (.inl ⟨rfl, ⟨err, rfl⟩, by omega, rfl⟩)⟩
      | ok e =>
        exact ⟨_, _, rfl, .inr (.inr ⟨e, _, rfl, (decodeFrame_ok_iff _ _).mp hd, (List.take_append_drop ..).symm⟩)⟩

theorem validFrame_length {f : Bytes} {e : Envelope} (h : ValidFrame f e) : f.length = 6 + e.len := by
  rw [h.1, h.2.1]
  simp [frameBytes]
  omega

/-- A DRAIN_STEP that does not stop removes at least one byte, and at least six when it emits (rule R115). -/
theorem drainStep_length {m m' : Memory} {r : StepResult} (h : drainStep m = .ok (r, m')) :
    (r = .stop → m'.length ≤ m.length) ∧ (r = .cont → m'.length + 1 ≤ m.length) ∧
      ∀ e, r = .emit e → m'.length + 6 ≤ m.length := by
  obtain ⟨r', m'', h', hc⟩ := drainStep_cases m
  rw [h] at h'
  simp only [Except.ok.injEq, Prod.mk.injEq] at h'
  obtain ⟨rfl, rfl⟩ := h'
  have hl := scan_length_le m
  obtain ⟨rfl, rfl, -⟩ | ⟨rfl, -, hn, rfl⟩ | ⟨e, f, rfl, hv, hs⟩ := hc
  · exact ⟨fun _ => hl, by simp, by simp⟩
  · refine ⟨by simp, fun _ => ?_, by simp⟩
    simp only [List.length_drop]
    omega
  · refine ⟨by simp, by simp, fun _ _ => ?_⟩
    have := validFrame_length hv
    have := congrArg List.length hs
    simp only [List.length_append] at this
    omega

/-- A step that stops leaves the head pending (rule R20). -/
theorem headPending_of_drainStep_stop {m m' : Memory} (h : drainStep m = .ok (.stop, m')) : HeadPending m' := by
  obtain ⟨r, m'', h', hc⟩ := drainStep_cases m
  rw [h] at h'
  simp only [Except.ok.injEq, Prod.mk.injEq] at h'
  obtain ⟨rfl, rfl⟩ := h'
  obtain ⟨-, rfl, hp⟩ | ⟨hr, -⟩ | ⟨e, f, hr, -⟩ := hc
  · exact hp
  · simp at hr
  · simp at hr

/-- A pending head stops the step, and nothing is consumed. -/
theorem drainStep_of_pending {m : Memory} (h : HeadPending m) : drainStep m = .ok (.stop, m) := by
  have hs : scan m = m := by
    obtain rfl | ⟨h0, -⟩ := h
    · rfl
    · cases m with
      | nil => rfl
      | cons b t =>
        simp only [List.getElem?_cons_zero, Option.some.injEq] at h0
        subst h0
        exact scan_magic_cons t
  rw [drainStep_eq, hs]
  obtain rfl | ⟨-, h6 | hn⟩ := h
  · simp
  · rw [if_pos h6]
  · by_cases h6 : m.length < 6
    · rw [if_pos h6]
    · rw [if_neg h6, if_pos (by simpa [le16] using hn)]

/-- Garbage without a magic byte, then a valid frame: the step emits the frame and leaves what follows it. -/
theorem drainStep_of_frame {g f rest : Bytes} {e : Envelope} (hg : magic ∉ g) (hf : ValidFrame f e) :
    drainStep (g ++ f ++ rest) = .ok (.emit e, rest) := by
  have hlen := validFrame_length hf
  have hd := (decodeFrame_ok_iff f e).mpr hf
  obtain ⟨hfb, hl, hcap, -⟩ := hf
  rw [frameBytes_eq] at hfb
  have hs : scan (g ++ f ++ rest) = f ++ rest := by
    rw [hfb, List.append_assoc]
    exact scan_append_magic _ hg
  have hext : le16 ((f ++ rest).getD 3 0) ((f ++ rest).getD 4 0) = e.len := by
    rw [hfb]
    simpa [wireFrame] using le16_bytes e.len (by omega)
  rw [drainStep_eq, hs, hext, if_neg (by simp; omega), if_neg (by simp; omega), ← hlen]
  simp [hd]

/-- A magic whose complete window fails DECODE: the step discards one byte (rules R117, R118). -/
theorem drainStep_of_bad_window {g t : Bytes} (hg : magic ∉ g)
    (hn : 6 + le16 ((magic :: t).getD 3 0) ((magic :: t).getD 4 0) ≤ (magic :: t).length)
    (hd : ∀ e, decodeFrame ((magic :: t).take (6 + le16 ((magic :: t).getD 3 0) ((magic :: t).getD 4 0))) ≠ .ok e) :
    drainStep (g ++ magic :: t) = .ok (.cont, t) := by
  rw [drainStep_eq, scan_append_magic t hg, if_neg (by omega), if_neg (by omega)]
  cases h : decodeFrame ((magic :: t).take (6 + le16 ((magic :: t).getD 3 0) ((magic :: t).getD 4 0))) with
  | error err => rfl
  | ok e => exact absurd h (hd e)

/-- The loop of DRAIN, whatever its fuel above LEN and whatever has been emitted before: it answers, it leaves the head
pending, it emits valid Envelopes only, and it consumes at least six bytes for each (rules R20, R114, R115). -/
theorem drainLoop_spec (m : Memory) : ∃ es m', (∀ n out, m.length < n → drainLoop n out m = .ok (out ++ es, m')) ∧
    HeadPending m' ∧ 6 * es.length + m'.length ≤ m.length ∧ ∀ e ∈ es, ValidEnvelope e := by
  induction hk : m.length using Nat.strong_induction_on generalizing m with
  | _ k ih =>
    subst hk
    obtain ⟨r, m₁, h, hc⟩ := drainStep_cases m
    have hlen := drainStep_length h
    obtain ⟨rfl, rfl, hp⟩ | ⟨rfl, -, -, -⟩ | ⟨e, f, rfl, hv, -⟩ := hc
    · refine ⟨[], scan m, ?_, hp, by simpa using scan_length_le m, by simp⟩
      intro n out hn
      cases n with
      | zero => omega
      | succ n => simp [drainLoop, h]
    · have h1 := hlen.2.1 rfl
      obtain ⟨es, m', hl, hp, hb, hv⟩ := ih m₁.length (by omega) m₁ rfl
      refine ⟨es, m', ?_, hp, by omega, hv⟩
      intro n out hn
      cases n with
      | zero => omega
      | succ n => simpa [drainLoop, h] using hl n out (by omega)
    · have h1 := hlen.2.2 e rfl
      obtain ⟨es, m', hl, hp, hb, hv'⟩ := ih m₁.length (by omega) m₁ rfl
      refine ⟨e :: es, m', ?_, hp, by simp only [List.length_cons]; omega, ?_⟩
      · intro n out hn
        cases n with
        | zero => omega
        | succ n => simpa [drainLoop, h] using hl n (out ++ [e]) (by omega)
      · intro x hx
        obtain rfl | hx := List.mem_cons.mp hx
        · exact hv.2
        · exact hv' x hx

/-- DRAIN answers. -/
theorem drainAll_ok (m : Memory) : ∃ es m', drainAll m = .ok (es, m') ∧ HeadPending m' ∧
    6 * es.length + m'.length ≤ m.length ∧ ∀ e ∈ es, ValidEnvelope e := by
  obtain ⟨es, m', hl, hp, hb, hv⟩ := drainLoop_spec m
  exact ⟨es, m', by simpa [drainAll] using hl (m.length + 1) [] (by omega), hp, hb, hv⟩

/-- The loop with enough fuel is DRAIN, after what was emitted before. -/
theorem drainLoop_of_drainAll {m m' : Memory} {es : List Envelope} (h : drainAll m = .ok (es, m')) {n : Nat}
    (out : List Envelope) (hn : m.length < n) : drainLoop n out m = .ok (out ++ es, m') := by
  obtain ⟨es', m'', hl, -⟩ := drainLoop_spec m
  have h' := hl (m.length + 1) [] (by omega)
  rw [drainAll] at h
  rw [h] at h'
  simp only [List.nil_append, Except.ok.injEq, Prod.mk.injEq] at h'
  obtain ⟨rfl, rfl⟩ := h'
  exact hl n out hn

theorem drainAll_of_stop {m m' : Memory} (h : drainStep m = .ok (.stop, m')) : drainAll m = .ok ([], m') := by
  simp [drainAll, drainLoop, h]

theorem drainAll_of_cont {m m' : Memory} (h : drainStep m = .ok (.cont, m')) : drainAll m = drainAll m' := by
  obtain ⟨es, m'', ha, -⟩ := drainAll_ok m'
  rw [ha]
  have := (drainStep_length h).2.1 rfl
  simpa [drainAll, drainLoop, h] using drainLoop_of_drainAll ha [] (n := m.length) (by omega)

theorem drainAll_of_emit {m m' m'' : Memory} {e : Envelope} {es : List Envelope}
    (h : drainStep m = .ok (.emit e, m')) (ha : drainAll m' = .ok (es, m'')) : drainAll m = .ok (e :: es, m'') := by
  have := (drainStep_length h).2.2 e rfl
  simpa [drainAll, drainLoop, h] using drainLoop_of_drainAll ha [e] (n := m.length) (by omega)

end Sys2Proof.Machine
end

