-- ==== Sys2Proof/Laws/State.lean ====
section
/-! SUPPORT. One lemma per field per update of the state, and the two ways a pure operation ends. -/

namespace Sys2Proof.Machine

section
variable (s : State) (m : Memory) (r : Response)

@[simp] theorem State.respond_buf : (s.respond r).buf = s.buf := rfl
@[simp] theorem State.respond_params : (s.respond r).params = s.params := rfl
@[simp] theorem State.respond_port : (s.respond r).port = s.port := rfl
@[simp] theorem State.respond_response : (s.respond r).response = r := rfl
@[simp] theorem State.respond_draining : (s.respond r).draining = s.draining := rfl
@[simp] theorem State.respond_sched : (s.respond r).sched = s.sched := rfl
@[simp] theorem State.respondWith_buf : (s.respondWith m r).buf = m := rfl
@[simp] theorem State.respondWith_params : (s.respondWith m r).params = s.params := rfl
@[simp] theorem State.respondWith_port : (s.respondWith m r).port = s.port := rfl
@[simp] theorem State.respondWith_response : (s.respondWith m r).response = r := rfl
@[simp] theorem State.respondWith_draining : (s.respondWith m r).draining = s.draining := rfl
@[simp] theorem State.respondWith_sched : (s.respondWith m r).sched = s.sched := rfl
@[simp] theorem newConnection_buf : (newConnection s).buf = [] := rfl
@[simp] theorem newConnection_params : (newConnection s).params = s.params := rfl
@[simp] theorem newConnection_port : (newConnection s).port = s.port := rfl
@[simp] theorem newConnection_response : (newConnection s).response = .noResult := rfl
@[simp] theorem newConnection_draining : (newConnection s).draining = none := rfl
@[simp] theorem newConnection_sched : (newConnection s).sched = s.sched := rfl

section
variable (nbits w : Nat)
@[simp] theorem State.withFetchWord_buf : (s.withFetchWord nbits w).buf = s.buf := rfl
@[simp] theorem State.withFetchWord_params : (s.withFetchWord nbits w).params = s.params := rfl
@[simp] theorem State.withFetchWord_port : (s.withFetchWord nbits w).port = tablePacket nbits w :: s.port := rfl
@[simp] theorem State.withFetchWord_response : (s.withFetchWord nbits w).response = s.response := rfl
@[simp] theorem State.withFetchWord_draining : (s.withFetchWord nbits w).draining = none := rfl
@[simp] theorem State.withFetchWord_sched : (s.withFetchWord nbits w).sched = s.sched := rfl
end

/-- A pure operation answers a next state that differs in the returned value only. -/
theorem complete_eq : complete s r = .next { s with response := r } := rfl

/-- Inside its domain such an operation completes. -/
theorem completeIf_of_true {d : Bool} (why : Refusal) (h : d = true) :
    completeIf d why s r = .next { s with response := r } := by
  simp [completeIf, h, complete_eq]

/-- Outside its domain it is refused. -/
theorem completeIf_of_false {d : Bool} (why : Refusal) (h : d = false) : completeIf d why s r = .refused why := by
  simp [completeIf, h]

/-- All that such an operation can do. -/
theorem completeIf_next_iff {d : Bool} {why : Refusal} {t : State} :
    completeIf d why s r = .next t ↔ d = true ∧ t = { s with response := r } := by
  cases d <;> simp [completeIf, complete_eq, eq_comm]

end

end Sys2Proof.Machine
end

