-- ==== Sys2Proof/Laws/Step.lean ====
section
/-! SUPPORT. All that a request and a step can do. -/

namespace Sys2Proof.Machine

/-- A run that begins with a step to a next state goes on from there. -/
theorem run_succ_of_step {s t : State} (h : step s = .next t) (n : Nat) :
    Sys2Proof.core.run (n + 1) s = Sys2Proof.core.run n t := by
  have run_succ : ∀ (M : Host.Core) (a b : M.State), M.step a = .next b → M.run (n + 1) a = M.run n b := by
    intro M a b hab
    rw [Host.Core.run, hab]
  exact run_succ Sys2Proof.core s t h

/-- The next step of a DRAIN in progress: it never stops the machine. -/
theorem drainAdvance_cases (out : List Envelope) (s : State) : ∃ r m, drainStep s.buf = .ok (r, m) ∧
    drainAdvance out s = .next { s with
      buf := m
      draining := (match r with | .stop => none | .cont => some out | .emit e => some (out ++ [e]))
      response := (match r with | .stop => .envelopes out | .cont => .noResult | .emit _ => .noResult) } := by
  obtain ⟨r, m, h, -⟩ := drainStep_cases s.buf
  refine ⟨r, m, h, ?_⟩
  cases r <;> simp [drainAdvance, h]

/-- DRAIN_STEP with no DRAIN in progress. -/
theorem execDrainStep_cases (s : State) (hd : s.draining = none) : ∃ r m, drainStep s.buf = .ok (r, m) ∧
    execDrainStep s = .next (s.respondWith m (.step r)) := by
  obtain ⟨r, m, h, -⟩ := drainStep_cases s.buf
  exact ⟨r, m, h, by simp [execDrainStep, hd, h]⟩

/-- DRAIN as one action with no DRAIN in progress. -/
theorem execDrain_atomic (s : State) (hd : s.draining = none) (ha : s.params.drainAtomic = true) :
    ∃ es m, drainAll s.buf = .ok (es, m) ∧ execDrain s = .next (s.respondWith m (.envelopes es)) := by
  obtain ⟨es, m, h, -⟩ := drainAll_ok s.buf
  exact ⟨es, m, h, by simp [execDrain, hd, ha, h]⟩

/-- DRAIN with `DRAIN_ATOMIC = false` and no DRAIN in progress is its first step. -/
theorem execDrain_nonatomic (s : State) (hd : s.draining = none) (ha : s.params.drainAtomic = false) :
    execDrain s = drainAdvance [] s := by simp [execDrain, hd, ha]

/-- All that a request which does not touch the buffer can do. -/
theorem exec_pure_cases {i : Instr} {s t : State} (hi : touchesBuffer i = false) (h : exec i s = .next t) :
    ∃ r, t = { s with response := r } := by
  cases i <;> simp only [touchesBuffer, Bool.true_eq_false] at hi <;>
    simp only [exec, execCksum, execFrameCk, execEncode, execDecode, execSplit, execDispatch, execParseStatusCompact,
      execParseStatusRich, execParseAck, execParseCompletion, execEncStatusReq, execEncStartHeat, execDecStartHeatBody,
      execEncDelayedStartBody, execDecDelayedStartBody, execEncSetMyTemp, execEnvMessage, execEnvAck,
      execFStatusCompact, execFStatusRich, execFCompletion, execFAckRecord, execFStatusReq, execFStartHeat,
      execFSetMyTemp, execFUnrecognized] at h <;>
    first
      | exact ⟨_, (completeIf_next_iff ..).mp h |>.2⟩
      | exact ⟨_, (Host.Outcome.next.inj h).symm⟩

/-- A request that may fall between two steps of a DRAIN leaves the DRAIN in progress as it is (rule R38). -/
theorem exec_draining_of_mayInterleave {i : Instr} {s t : State} (hi : mayInterleave i = true)
    (h : exec i s = .next t) : t.draining = s.draining := by
  by_cases ht : touchesBuffer i = false
  · obtain ⟨r, rfl⟩ := exec_pure_cases ht h
    rfl
  · cases i <;> simp [touchesBuffer, mayInterleave] at ht hi
    · cases h; rfl
    · simp only [exec, execAppend] at h
      split at h <;> cases h
      rfl

/-- A request taken while a DRAIN is in progress is one that may fall between its steps. -/
theorem fetch_run_mayInterleave {s s' : State} {i : Instr} (hd : s.draining ≠ none) (h : fetch s = .run i s') :
    mayInterleave i = true := by
  unfold fetch at h
  split at h
  · contradiction
  · split at h
    · unfold nextInterleaved at h
      split at h
      · split at h
        · next hm => simp only [Next.run.injEq] at h; exact h.1 ▸ hm
        · simp at h
      · simp at h
    · simp at h
    · simp at h

/-- What the fetch hands on: the state as it was, but for the request taken and the choice used. -/
theorem fetch_state {s s' : State} {i : Instr} (h : fetch s = .run i s') :
    ∃ port sched, s' = { s with port := port, sched := sched } := by
  unfold fetch at h
  split at h
  · unfold nextRequest at h
    split at h
    · simp at h
    · split at h
      · simp only [Next.run.injEq] at h
        exact ⟨_, s.sched, h.2.symm⟩
      · simp at h
  · split at h
    · unfold nextInterleaved at h
      split at h
      · next hr =>
        unfold nextRequest at hr
        split at hr
        · simp at hr
        · split at hr
          · simp only [Next.run.injEq] at hr
            split at h
            · simp only [Next.run.injEq] at h
              obtain ⟨-, rfl⟩ := h
              exact ⟨_, _, hr.2.symm⟩
            · simp at h
          · simp at hr
      · simp at h
    · simp at h
    · simp at h

/-- The DRAIN step the fetch hands on is that of the DRAIN in progress. -/
theorem fetch_advance {s s' : State} {out : List Envelope} (h : fetch s = .advance out s') :
    s.draining = some out ∧ ∃ sched, s' = { s with sched := sched } := by
  unfold fetch at h
  split at h
  · unfold nextRequest at h
    split at h
    · simp at h
    · split at h <;> simp at h
  · next out' hd =>
    split at h
    · unfold nextInterleaved at h
      split at h
      · split at h
        · simp at h
        · simp only [Next.advance.injEq] at h
          exact ⟨h.1 ▸ hd, _, h.2.symm⟩
      · simp only [Next.advance.injEq] at h
        exact ⟨h.1 ▸ hd, _, h.2.symm⟩
    · simp only [Next.advance.injEq] at h
      exact ⟨h.1 ▸ hd, _, h.2.symm⟩
    · simp only [Next.advance.injEq] at h
      exact ⟨h.1 ▸ hd, s.sched, h.2.symm⟩

/-- All that a step to a next state can be. -/
theorem step_next_cases {s t : State} (h : step s = .next t) :
    (fetch s = .idle ∧ t = s) ∨ (∃ i s', fetch s = .run i s' ∧ exec i s' = .next t) ∨
      ∃ out s', fetch s = .advance out s' ∧ drainAdvance out s' = .next t := by
  unfold step at h
  cases hf : fetch s with
  | idle => rw [hf] at h; exact .inl ⟨rfl, (Host.Outcome.next.inj h).symm⟩
  | run i s' => rw [hf] at h; exact .inr (.inl ⟨i, s', rfl, h⟩)
  | advance out s' => rw [hf] at h; exact .inr (.inr ⟨out, s', rfl, h⟩)
  | reject why => rw [hf] at h; simp at h

end Sys2Proof.Machine
end

