-- ==== Sys2Proof/Tests/Slice0.lean ====
section
/-! SUPPORT. The model's own tests: ill-formed requests, words written out from the spec's encodings, the vectors of
95_test_vectors.md (their ids stand in the comments), and, for each statement with hypotheses, a state and operands that
meet them. -/

namespace Sys2Proof.Tests

open Sys2Proof Sys2Proof.Machine

/-! ### Helpers -/

/-- The reset state with bytes in the buffer. -/
def holding (m : Bytes) : State := { State.reset with buf := m }

/-- The next state, if that is the outcome. -/
def nextOf : Host.Outcome State Fault Refusal → Option State
  | .next s => some s
  | _ => none

/-- The refusal, if that is the outcome. -/
def refusalOf : Host.Outcome State Fault Refusal → Option Refusal
  | .refused r => some r
  | _ => none

/-- A request at a buffer content answers a value and leaves a buffer content, and nothing else changes. -/
def gives (i : Instr) (m : Bytes) (r : Response) (m' : Bytes) : Bool :=
  nextOf (exec i (holding m)) = some { holding m' with response := r }

/-- A request at reset answers a value and leaves BUF empty. -/
def answers (i : Instr) (r : Response) : Bool := gives i [] r []

def refuses (i : Instr) (r : Refusal) : Bool := refusalOf (exec i State.reset) = some r

/-- V1: the status request, seq 41. -/
def v1 : Bytes := [0xA5, 0x22, 0x41, 0x04, 0x00, 0x72, 0x01, 0x40, 0x40, 0x00]
/-- V2: start heating, mode COFFEE, seq 03. -/
def v2 : Bytes := [0xA5, 0x22, 0x03, 0x09, 0x00, 0x95, 0x01, 0xF0, 0xA3, 0x00, 0x03, 0x00, 0x00, 0x00, 0x00]
/-- V3: set custom temperature 179, seq 1C. -/
def v3 : Bytes := [0xA5, 0x22, 0x1C, 0x05, 0x00, 0xCD, 0x01, 0xF3, 0xA3, 0x00, 0xB3]
/-- V4: compact status, seq B5. -/
def v4 : Bytes :=
  [0xA5, 0x22, 0xB5, 0x0C, 0x00, 0xB3, 0x01, 0x41, 0x40, 0x00, 0x00, 0x00, 0xB3, 0x8F, 0x00, 0x00, 0x00, 0x00]
/-- V5: completion DONE, seq 98. -/
def v5 : Bytes := [0xA5, 0x22, 0x98, 0x05, 0x00, 0xE0, 0x01, 0xF7, 0xA3, 0x00, 0x20]

def e1 : Envelope := ⟨.message, 0x41, 4, 0x72, v1.drop 6⟩
def e2 : Envelope := ⟨.message, 0x03, 9, 0x95, v2.drop 6⟩
def e3 : Envelope := ⟨.message, 0x1C, 5, 0xCD, v3.drop 6⟩
def e4 : Envelope := ⟨.message, 0xB5, 12, 0xB3, v4.drop 6⟩
def e5 : Envelope := ⟨.message, 0x98, 5, 0xE0, v5.drop 6⟩

/-- A compact snapshot. -/
def compact (seq stage mode setpoint temperature : Byte) (heating : Bool) : Parsed :=
  .status .compact
    { seq, temperature, setpoint, heating, stage, mode, onBaseRaw := none, myTemp := none, babyFormula := none,
      holdRemaining := none, errorCode := none }

/-- DECODE and DISPATCH of a frame, as the DV rows of the vectors do. -/
def received (f : Bytes) : Response := receiveResponse defaultParams f

/-! ### Well-formedness: an ill-formed term for each check -/

def bytesOf (n : Nat) : Bytes := List.replicate n 0x00

theorem test_illFormed_frameCk : wellFormed defaultParams (.frameCk (bytesOf 5)) = false := by decide
theorem test_illFormed_encode : wellFormed defaultParams (.encode .message 0 (bytesOf 257)) = false := by decide +kernel
theorem test_illFormed_append : wellFormed defaultParams (.append (bytesOf 513)) = false := by decide +kernel
theorem test_illFormed_split : wellFormed defaultParams (.split (bytesOf 5)) = false ∧
    wellFormed defaultParams (.split (bytesOf 263)) = false := by decide +kernel
theorem test_illFormed_dispatch : wellFormed defaultParams (.dispatch ⟨.ack, 0, 5, 0, bytesOf 4⟩) = false ∧
    wellFormed defaultParams (.dispatch ⟨.ack, 0, 257, 0, bytesOf 257⟩) = false := by decide +kernel
theorem test_illFormed_parse : wellFormed defaultParams (.parseStatusCompact 0 [0x01, 0x41, 0x40]) = false ∧
    wellFormed defaultParams (.parseStatusRich 0 [0x01, 0x41, 0x40, 0x00]) = false ∧
    wellFormed defaultParams (.parseAck 0 [0x01, 0x40, 0x40, 0x00]) = false ∧
    wellFormed defaultParams (.parseCompletion 0 [0x01, 0xF7, 0xA3, 0x01]) = false := by decide
theorem test_illFormed_encStartHeat : wellFormed defaultParams (.encStartHeat 65536 true 0) = false ∧
    wellFormed defaultParams (.encStartHeat 0 true 65536) = false := by decide
theorem test_illFormed_encDelayedStart : wellFormed defaultParams (.encDelayedStartBody 65536 0 true 0) = false ∧
    wellFormed defaultParams (.encDelayedStartBody 0 65536 true 0) = false ∧
    wellFormed defaultParams (.encDelayedStartBody 0 0 true 65536) = false := by decide
theorem test_illFormed_encSetMyTemp : wellFormed defaultParams (.encSetMyTemp 256) = false := by decide
theorem test_illFormed_fAckRecord :
    wellFormed defaultParams (.fAckRecord 0 0 0 0 ⟨0x01, 0x40, 0x40, 0x00⟩ []) = false := by decide
theorem test_illFormed_fUnrecognized :
    wellFormed defaultParams (.fUnrecognized .ack 0 0 0 0 (bytesOf 4)) = false ∧
    wellFormed defaultParams (.fUnrecognized .message 0 0 0 0 [0x01, 0x41, 0x40, 0x00]) = false ∧
    wellFormed defaultParams (.fUnrecognized .message 0 0 0 0 [0x01, 0xF7, 0xA3, 0x00]) = false ∧
    wellFormed defaultParams (.fUnrecognized .message 0 0 0 0 [0x01, 0x40, 0x40, 0x00]) = false ∧
    wellFormed defaultParams (.fUnrecognized .message 0 0 0 0 [0x01, 0xF0, 0xA3, 0x00]) = false ∧
    wellFormed defaultParams (.fUnrecognized .message 0 0 0 0 [0x01, 0xF3, 0xA3, 0x00]) = false := by decide

/-! ### Decoding: the words of 30_encoding.md rules R68 and R69, operand bytes in the layout of log 1 -/

theorem test_decode_checksum : decode defaultParams [0b00000, 0xAA] = .ok (.cksum [0xAA]) ∧
    decode defaultParams [0b00001, 1, 2, 3, 4, 5, 6] = .ok (.frameCk [1, 2, 3, 4, 5, 6]) := by decide
theorem test_decode_envelope : decode defaultParams [0b00010, 0, 0x41, 0xAA] = .ok (.encode .message 0x41 [0xAA]) ∧
    decode defaultParams [0b00010, 1, 0x41] = .ok (.encode .ack 0x41 []) ∧
    decode defaultParams [0b00011, 0xA5] = .ok (.decode [0xA5]) := by decide
theorem test_decode_reassembler : decode defaultParams [0b00100] = .ok .clear ∧
    decode defaultParams [0b00101, 0xA5, 0x22] = .ok (.append [0xA5, 0x22]) ∧
    decode defaultParams [0b00110] = .ok .drainStep ∧ decode defaultParams [0b00111] = .ok .drain ∧
    decode defaultParams [0b01000, 0xA5] = .ok (.split [0xA5]) := by decide
theorem test_decode_payload :
    decode defaultParams [0b01001, 1, 0x08, 0xBA, 0x01, 0x41] = .ok (.dispatch ⟨.ack, 0x08, 2, 0xBA, [0x01, 0x41]⟩) ∧
    decode defaultParams [0b01010, 0x07, 0x01] = .ok (.parseStatusCompact 0x07 [0x01]) ∧
    decode defaultParams [0b01011, 0x07, 0x01] = .ok (.parseStatusRich 0x07 [0x01]) ∧
    decode defaultParams [0b01100, 0x07, 0x01] = .ok (.parseAck 0x07 [0x01]) ∧
    decode defaultParams [0b01101, 0x07, 0x01] = .ok (.parseCompletion 0x07 [0x01]) := by decide
theorem test_decode_command : decode defaultParams [0b01110] = .ok .encStatusReq ∧
    decode defaultParams [0b01111, 0x02, 0x01, 1, 0x04, 0x03] = .ok (.encStartHeat 0x0102 true 0x0304) ∧
    decode defaultParams [0b10000, 0x04] = .ok (.decStartHeatBody [0x04]) ∧
    decode defaultParams [0b10001, 0x10, 0x0E, 0x04, 0x00, 0, 0x58, 0x02]
      = .ok (.encDelayedStartBody 3600 4 false 600) ∧
    decode defaultParams [0b10010, 0x0E] = .ok (.decDelayedStartBody [0x0E]) ∧
    decode defaultParams [0b10011, 0xB3] = .ok (.encSetMyTemp 179) := by decide
/-- The five source frames, read by the row whose pattern they match. -/
theorem test_decode_sourceFrames : decode defaultParams v1 = .ok (.fStatusReq 0x41 0x04 0x00 0x72 []) ∧
    decode defaultParams v2 = .ok (.fStartHeat 0x03 0x09 0x00 0x95 [0x03, 0x00, 0x00, 0x00, 0x00]) ∧
    decode defaultParams v3 = .ok (.fSetMyTemp 0x1C 0x05 0x00 0xCD [0xB3]) ∧
    decode defaultParams v4
      = .ok (.fStatusCompact 0xB5 0x0C 0x00 0xB3 [0x00, 0x00, 0xB3, 0x8F, 0x00, 0x00, 0x00, 0x00]) ∧
    decode defaultParams v5 = .ok (.fCompletion 0x98 0x05 0x00 0xE0 [0x20]) := by decide
/-- T13, T14, DV9, DV8, DV26: the rows the source frames do not show. -/
theorem test_decode_otherRows :
    decode defaultParams [0xA5, 0x22, 0x00, 0x00, 0x00, 0x38] = .ok (.envMessage 0x00 0x00 0x00 0x38 []) ∧
    decode defaultParams [0xA5, 0x12, 0xFF, 0x00, 0x00, 0x49] = .ok (.envAck 0xFF 0x00 0x00 0x49 []) ∧
    decode defaultParams [0xA5, 0x12, 0x09, 0x08, 0x00, 0x79, 0x01, 0x40, 0x40, 0x00, 0x01, 0x04, 0xD4, 0x64]
      = .ok (.fStatusRich 0x09 0x08 0x00 0x79 [0x01, 0x04, 0xD4, 0x64]) ∧
    decode defaultParams [0xA5, 0x12, 0x08, 0x04, 0x00, 0xBA, 0x01, 0x41, 0x40, 0x00]
      = .ok (.fAckRecord 0x08 0x04 0x00 0xBA ⟨0x01, 0x41, 0x40, 0x00⟩ []) ∧
    decode defaultParams [0xA5, 0x22, 0x19, 0x0C, 0x00, 0x50, 0x00, 0x41, 0x40, 0x00]
      = .ok (.fUnrecognized .message 0x19 0x0C 0x00 0x50 [0x00, 0x41, 0x40, 0x00]) := by decide
/-- The view bytes of log 7: V5 as an envelope, T14 as an F_ row; and a bare frame of 9 bytes (DV24). -/
theorem test_decode_views :
    decode defaultParams (0xE0 :: v5) = .ok (.envMessage 0x98 0x05 0x00 0xE0 [0x01, 0xF7, 0xA3, 0x00, 0x20]) ∧
    decode defaultParams [0xE1, 0xA5, 0x12, 0xFF, 0x00, 0x00, 0x49] = .ok (.fUnrecognized .ack 0xFF 0x00 0x00 0x49 []) ∧
    decode defaultParams [0xA5, 0x12, 0x17, 0x03, 0x00, 0x9A, 0x01, 0xF0, 0xA3]
      = .ok (.envAck 0x17 0x03 0x00 0x9A [0x01, 0xF0, 0xA3]) := by decide
/-- Every reason a packet is refused by the decoder. -/
theorem test_decode_rejects : decode defaultParams [] = .error .emptyRequest ∧
    decode defaultParams [0b10100] = .error .unknownOpsel ∧ decode defaultParams [0b11111] = .error .unknownOpsel ∧
    decode defaultParams [0x20] = .error .unknownSelector ∧
    decode defaultParams [0b00100, 0x00] = .error .malformedOperands ∧
    decode defaultParams [0b00010, 2, 0] = .error .malformedOperands ∧
    decode defaultParams [0xA5, 0x23, 0, 0, 0, 0] = .error .noWireRow := by decide
/-- The table words, and the placing of one: the very next step performs it. -/
theorem test_tableWords : decodeTableWord 8 0b01110 = some .encStatusReq ∧
    decodeTableWord 8 0b10100 = none ∧
    decodeTableWord 80 0x0040400100000000_12A5 = some (.fStatusRich 0 0 0 0 []) ∧
    nextOf (step (State.reset.withFetchWord 8 0b01110))
      = some { State.reset with response := .bytes [0x01, 0x40, 0x40, 0x00] } := by decide +kernel

/-! ### Checksum -/

/-- T3, T4, T7. -/
theorem test_cksum : answers (.cksum [0x01]) (.byte 0xFF) ∧ answers (.cksum [0xFF]) (.byte 0x01) ∧
    answers (.cksum [0xA5, 0x22, 0x00, 0x00, 0x00, 0x01]) (.byte 0x38) := by decide
/-- T1, T6. -/
theorem test_cksum_wraps : answers (.cksum []) (.byte 0x00) ∧
    answers (.cksum (List.replicate 256 0x01)) (.byte 0x00) := by decide +kernel
/-- T9, T10, T12. -/
theorem test_frameCk : answers (.frameCk v1) (.byte 0x72) ∧ answers (.frameCk (v1.set 5 0xFF)) (.byte 0x72) ∧
    refuses (.frameCk (v1.take 5)) .frameTooShort := by decide

/-! ### Envelope -/

/-- T14, T16. -/
theorem test_encode : answers (.encode .ack 0xFF []) (.bytes [0xA5, 0x12, 0xFF, 0x00, 0x00, 0x49]) ∧
    answers (.encode .message 0x7F [0xA5, 0xA5, 0xA5])
      (.bytes [0xA5, 0x22, 0x7F, 0x03, 0x00, 0xC7, 0xA5, 0xA5, 0xA5]) := by decide
/-- T19, T21. -/
theorem test_encode_cap :
    answers (.encode .message 0x10 ((List.range 256).map (BitVec.ofNat 8)))
      (.bytes ([0xA5, 0x22, 0x10, 0x00, 0x01, 0xA7] ++ (List.range 256).map (BitVec.ofNat 8))) ∧
    refuses (.encode .message 0x10 (bytesOf 257)) .payloadTooLong := by decide +kernel
/-- T23, T24, T25, T27, T29, T34: each reason. -/
theorem test_decode_reasons : answers (.decode (v1.take 5)) (.frameError .tooShort) ∧
    answers (.decode (v1.set 0 0xA4)) (.frameError .badMagic) ∧
    answers (.decode (v1.set 1 0x23)) (.frameError .badKind) ∧
    answers (.decode (v1 ++ [0x00])) (.frameError .lengthMismatch) ∧
    answers (.decode (v1.set 5 0x73)) (.frameError .badChecksum) ∧
    answers (.decode ([0xA5, 0x22, 0x41, 0x01, 0x01, 0xF5] ++ bytesOf 257)) (.frameError .lengthOverCap) := by
  decide +kernel
/-- V4 and T31: success, and the first failing check wins. -/
theorem test_decode_order : answers (.decode v4) (.envelope e4) ∧
    answers (.decode [0x00, 0x00, 0x00, 0x00, 0xFF, 0xFF, 0x00]) (.frameError .badMagic) := by decide

/-! ### Reassembler -/

theorem test_clear : gives .clear [0xA5, 0x22] .noResult [] := by decide
/-- S12: 512 is kept, 513 discards the buffer first; 513 in one chunk is refused. -/
theorem test_append : gives (.append (bytesOf 12)) (bytesOf 500) .noResult (bytesOf 512) ∧
    gives (.append [0x11]) (bytesOf 512) .noResult [0x11] ∧ gives (.append []) (bytesOf 512) .noResult (bytesOf 512) ∧
    refuses (.append (bytesOf 513)) .chunkTooLong := by decide +kernel
/-- S1's first step; S8. -/
theorem test_drainStep : gives .drainStep ([0x00, 0xFF, 0x13] ++ v4) (.step (.emit e4)) [] ∧
    gives .drainStep ([0xA5, 0x00, 0x00, 0x00, 0xFF] ++ v5) (.step .stop) ([0xA5, 0x00, 0x00, 0x00, 0xFF] ++ v5) := by
  decide
/-- S13's first two steps: one byte is discarded; then all up to the last byte, a magic. -/
theorem test_drainStep_slides :
    gives .drainStep [0xA5, 0x22, 0x01, 0x05, 0x00, 0xF7, 0x01, 0xF3, 0xA3, 0x00, 0xA5] (.step .cont)
      [0x22, 0x01, 0x05, 0x00, 0xF7, 0x01, 0xF3, 0xA3, 0x00, 0xA5] ∧
    gives .drainStep [0x22, 0x01, 0x05, 0x00, 0xF7, 0x01, 0xF3, 0xA3, 0x00, 0xA5] (.step .stop) [0xA5] := by decide
/-- S2, S6, S10. -/
theorem test_drain : gives .drain (v4 ++ v5) (.envelopes [e4, e5]) [] ∧
    gives .drain (v4.set 5 0x4C ++ v5) (.envelopes [e5]) [] ∧
    gives .drain ([0xA5, 0x33, 0x41, 0x04, 0x00, 0x72, 0x01, 0x40, 0x40, 0x00] ++ v1) (.envelopes [e1]) [] := by
  decide +kernel
/-- S9: the stall is released by a later frame; S11: a complete window over the cap. -/
theorem test_drain_stall : gives .drain ([0xA5, 0x22, 0x00, 0x10, 0x00, 0x00] ++ v5) (.envelopes [])
      ([0xA5, 0x22, 0x00, 0x10, 0x00, 0x00] ++ v5) ∧
    gives .drain ([0xA5, 0x22, 0x00, 0x10, 0x00, 0x00] ++ v5 ++ v1) (.envelopes [e5, e1]) [] ∧
    gives .drain ([0xA5, 0x22, 0x41, 0x01, 0x01, 0x00] ++ bytesOf 257) (.envelopes []) [] := by decide +kernel
/-- Section 5 of the vectors: 40, 41 and 262 bytes; the bounds of the domain. -/
theorem test_split : answers (.split (bytesOf 40)) (.chunks [bytesOf 20, bytesOf 20]) ∧
    answers (.split (bytesOf 41)) (.chunks [bytesOf 20, bytesOf 20, bytesOf 1]) ∧
    answers (.split (bytesOf 262)) (.chunks (List.replicate 13 (bytesOf 20) ++ [bytesOf 2])) ∧
    refuses (.split (bytesOf 5)) .notAnEncodedFrame := by decide +kernel

/-! ### Payload -/

/-- V5, DV8, DV24. -/
theorem test_dispatch : answers (.dispatch e5) (.parsed (.completion 0x98 .done)) ∧
    answers (.dispatch ⟨.ack, 0x08, 4, 0xBA, [0x01, 0x41, 0x40, 0x00]⟩)
      (.parsed (.ackRecord ⟨0x08, ⟨0x01, 0x41, 0x40, 0x00⟩, true, []⟩)) ∧
    answers (.dispatch ⟨.ack, 0x17, 3, 0x9A, [0x01, 0xF0, 0xA3]⟩)
      (.parsed (.unrecognized .ack 0x17 [0x01, 0xF0, 0xA3])) := by decide
/-- V4, DV4, DV6 and a payload of another header. -/
theorem test_parseStatusCompact :
    answers (.parseStatusCompact 0xB5 e4.payload) (.parsed (compact 0xB5 0x00 0x00 0xB3 0x8F false)) ∧
    answers (.parseStatusCompact 0x04 [0x01, 0x41, 0x40, 0x00, 0x00, 0x00, 0x27, 0x64, 0x00, 0x00, 0x00, 0x00])
      (.parsed (.rejected .range .message 0x04
        [0x01, 0x41, 0x40, 0x00, 0x00, 0x00, 0x27, 0x64, 0x00, 0x00, 0x00, 0x00])) ∧
    answers (.parseStatusCompact 0x06 [0x01, 0x41, 0x40, 0x00, 0x00, 0x00, 0xB3, 0x8F])
      (.parsed (.rejected .truncated .message 0x06 [0x01, 0x41, 0x40, 0x00, 0x00, 0x00, 0xB3, 0x8F])) ∧
    refuses (.parseStatusCompact 0x00 [0x01, 0x40, 0x40, 0x00]) .notThisParsersPayload := by decide
/-- DV13: all optional fields present; DV12: the second byte of hold_remaining missing. -/
theorem test_parseStatusRich :
    answers (.parseStatusRich 0x0D ([0x01, 0x40, 0x40, 0x00, 0x01, 0x04, 0xD4, 0x64, 0xB3] ++ bytesOf 5 ++
        [0x01, 0x01, 0x2C] ++ bytesOf 10 ++ [0x07, 0x00, 0x01, 0x00, 0x00]))
      (.parsed (.status .rich
        { seq := 0x0D, stage := 1, mode := 4, setpoint := 212, temperature := 100, heating := true,
          myTemp := some 179, onBaseRaw := some 1, holdRemaining := some 300, errorCode := some 7,
          babyFormula := some true })) ∧
    answers (.parseStatusRich 0x0C ([0x01, 0x40, 0x40, 0x00, 0x00, 0x03, 0xD4, 0xD2, 0xB3] ++ bytesOf 7))
      (.parsed (.status .rich
        { seq := 0x0C, stage := 0, mode := 3, setpoint := 212, temperature := 210, heating := false,
          myTemp := some 179, onBaseRaw := some 0, holdRemaining := none, errorCode := none,
          babyFormula := none })) := by decide +kernel
/-- DV22, DV23. -/
theorem test_parseAck : answers (.parseAck 0x15 [0x01, 0xF0, 0xA3, 0x00, 0x00, 0x11, 0x22])
      (.parsed (.ackRecord ⟨0x15, ⟨0x01, 0xF0, 0xA3, 0x00⟩, true, [0x00, 0x11, 0x22]⟩)) ∧
    answers (.parseAck 0x16 [0x01, 0xF0, 0xA3, 0x00, 0x01])
      (.parsed (.ackRecord ⟨0x16, ⟨0x01, 0xF0, 0xA3, 0x00⟩, false, [0x01]⟩)) := by decide
/-- DV17, DV18, DV19. -/
theorem test_parseCompletion :
    answers (.parseCompletion 0x10 [0x01, 0xF7, 0xA3, 0x00, 0x21]) (.parsed (.completion 0x10 .holdComplete)) ∧
    answers (.parseCompletion 0x11 [0x01, 0xF7, 0xA3, 0x00, 0x22])
      (.parsed (.rejected .badValue .message 0x11 [0x01, 0xF7, 0xA3, 0x00, 0x22])) ∧
    answers (.parseCompletion 0x12 [0x01, 0xF7, 0xA3, 0x00])
      (.parsed (.rejected .truncated .message 0x12 [0x01, 0xF7, 0xA3, 0x00])) := by decide
/-- The readings of rules R58, R149 and R204 that no operation performs. -/
theorem test_views : stageOfCode 3 = some .keepWarm ∧ stageOfCode 4 = none ∧ modeOfCode 3 = some .coffee ∧
    modeOfCode 7 = none ∧ eventOf (.completion 0x98 .done) = some .heatingComplete ∧
    eventOf (.unrecognized .ack 0 []) = none := by decide

/-! ### Commands -/

/-- B1, B4, B15. -/
theorem test_encoders : answers .encStatusReq (.bytes [0x01, 0x40, 0x40, 0x00]) ∧
    answers (.encStartHeat 0x0102 true 0x0304) (.bytes [0x01, 0xF0, 0xA3, 0x00, 0x02, 0x01, 0x01, 0x03, 0x04]) ∧
    answers (.encSetMyTemp 39) (.bytes [0x01, 0xF3, 0xA3, 0x00, 0x27]) := by decide
/-- B9, B11. -/
theorem test_encDelayedStartBody :
    answers (.encDelayedStartBody 3600 4 true 600) (.bytes [0x0E, 0x10, 0x04, 0x00, 0x01, 0x02, 0x58]) ∧
    answers (.encDelayedStartBody 65535 6 true 65535) (.bytes [0xFF, 0xFF, 0x06, 0x00, 0x01, 0xFF, 0xFF]) := by decide
/-- B7, B8, B12, B13. -/
theorem test_bodyDecoders :
    answers (.decStartHeatBody [0x04, 0x00, 0x02, 0x07, 0x08, 0x99]) (.startHeatBody ⟨4, true, 1800⟩) ∧
    answers (.decStartHeatBody [0x04, 0x00, 0x01, 0x07]) .truncated ∧
    answers (.decDelayedStartBody [0x0E, 0x10, 0x04, 0x00, 0x01, 0x02, 0x58]) (.delayedStartBody ⟨3600, 4, true, 600⟩) ∧
    answers (.decDelayedStartBody [0x0E, 0x10, 0x04, 0x00, 0x01, 0x02]) .truncated := by decide

/-! ### Wire rows -/

/-- T32, T33, and a wrong checksum. -/
theorem test_envRows : answers (.envMessage 0x00 0x00 0x00 0x38 []) (.envelope ⟨.message, 0x00, 0, 0x38, []⟩) ∧
    answers (.envAck 0xFF 0x00 0x00 0x49 []) (.envelope ⟨.ack, 0xFF, 0, 0x49, []⟩) ∧
    answers (.envAck 0xFF 0x00 0x00 0x48 []) (.frameError .badChecksum) := by decide
/-- V4, V5, DV9, DV21, DV29. -/
theorem test_shapeRows :
    answers (.fStatusCompact 0xB5 0x0C 0x00 0xB3 [0x00, 0x00, 0xB3, 0x8F, 0x00, 0x00, 0x00, 0x00])
      (.parsed (compact 0xB5 0x00 0x00 0xB3 0x8F false)) ∧
    answers (.fCompletion 0x98 0x05 0x00 0xE0 [0x20]) (.parsed (.completion 0x98 .done)) ∧
    answers (.fStatusRich 0x09 0x08 0x00 0x79 [0x01, 0x04, 0xD4, 0x64])
      (.parsed (.status .rich
        { seq := 0x09, stage := 1, mode := 4, setpoint := 212, temperature := 100, heating := true, myTemp := none,
          onBaseRaw := none, holdRemaining := none, errorCode := none, babyFormula := none })) ∧
    answers (.fAckRecord 0x14 0x04 0x00 0x9C ⟨0x01, 0xF0, 0xA3, 0x00⟩ [])
      (.parsed (.ackRecord ⟨0x14, ⟨0x01, 0xF0, 0xA3, 0x00⟩, true, []⟩)) ∧
    answers (.fUnrecognized .message 0x18 0x00 0x00 0x20 []) (.parsed (.unrecognized .message 0x18 [])) := by decide
/-- V1, V2, V3 with their fields. -/
theorem test_commandRows :
    answers (.fStatusReq 0x41 0x04 0x00 0x72 []) (.command (.unrecognized .message 0x41 e1.payload) .statusReq) ∧
    answers (.fStartHeat 0x03 0x09 0x00 0x95 [0x03, 0x00, 0x00, 0x00, 0x00])
      (.command (.unrecognized .message 0x03 e2.payload) (.startHeat ⟨3, false, 0⟩)) ∧
    answers (.fSetMyTemp 0x1C 0x05 0x00 0xCD [0xB3])
      (.command (.unrecognized .message 0x1C e3.payload) (.setMyTemp 0xB3)) := by decide
/-- DV1, DV2, DV3, DV5, DV7: the compact layout at its bounds. -/
theorem test_vectors_compact :
    received [0xA5, 0x22, 0x01, 0x0C, 0x00, 0x6B, 0x01, 0x41, 0x40, 0x00, 0x01, 0x04, 0xD4, 0x64, 0x01, 0x00, 0x00,
      0x00] = .parsed (compact 0x01 1 4 212 100 true) ∧
    received [0xA5, 0x22, 0x02, 0x09, 0x00, 0x5B, 0x01, 0x41, 0x40, 0x00, 0x00, 0x00, 0x28, 0x28, 0x00]
      = .parsed (compact 0x02 0 0 40 40 false) ∧
    received [0xA5, 0x22, 0x03, 0x0C, 0x00, 0xD9, 0x01, 0x41, 0x40, 0x00, 0x00, 0x00, 0xE6, 0xE6, 0x02, 0x00, 0x00,
      0x00] = .parsed (compact 0x03 0 0 230 230 true) ∧
    received [0xA5, 0x22, 0x05, 0x0C, 0x00, 0x5A, 0x01, 0x41, 0x40, 0x00, 0x00, 0x00, 0x64, 0xE7, 0x00, 0x00, 0x00,
      0x00] = .parsed (.rejected .range .message 0x05
        [0x01, 0x41, 0x40, 0x00, 0x00, 0x00, 0x64, 0xE7, 0x00, 0x00, 0x00, 0x00]) ∧
    received [0xA5, 0x22, 0x07, 0x0D, 0x00, 0xA6, 0x01, 0x41, 0x40, 0x00, 0x09, 0x07, 0xB3, 0x8F, 0x00, 0x00, 0x00,
      0x00, 0xAA] = .parsed (compact 0x07 9 7 179 143 false) := by decide
/-- DV10, DV14, DV26, DV28. -/
theorem test_vectors_other :
    received [0xA5, 0x12, 0x0A, 0x07, 0x00, 0xDD, 0x01, 0x40, 0x40, 0x00, 0x01, 0x04, 0xD4]
      = .parsed (.rejected .truncated .ack 0x0A [0x01, 0x40, 0x40, 0x00, 0x01, 0x04, 0xD4]) ∧
    received [0xA5, 0x12, 0x0E, 0x08, 0x00, 0x48, 0x01, 0x40, 0x40, 0x00, 0x01, 0x04, 0x00, 0x64]
      = .parsed (.rejected .range .ack 0x0E [0x01, 0x40, 0x40, 0x00, 0x01, 0x04, 0x00, 0x64]) ∧
    received [0xA5, 0x22, 0x19, 0x0C, 0x00, 0x50, 0x00, 0x41, 0x40, 0x00, 0x00, 0x00, 0xB3, 0x8F, 0x00, 0x00, 0x00,
      0x00] = .parsed (.unrecognized .message 0x19
        [0x00, 0x41, 0x40, 0x00, 0x00, 0x00, 0xB3, 0x8F, 0x00, 0x00, 0x00, 0x00]) ∧
    received [0xA5, 0x12, 0x1B, 0x05, 0x00, 0x6D, 0x01, 0xF7, 0xA3, 0x00, 0x20]
      = .parsed (.ackRecord ⟨0x1B, ⟨0x01, 0xF7, 0xA3, 0x00⟩, false, [0x20]⟩) := by decide

/-! ### Pseudo-operations -/

/-- P1: encode, split, feed the chunks back. -/
theorem test_tx_rx :
    tx .message 0x2A ((List.range 20).map fun j => BitVec.ofNat 8 (0x30 + j))
      = some [[0xA5, 0x22, 0x2A, 0x14, 0x00, 0x7C] ++ (List.range 14).map fun j => BitVec.ofNat 8 (0x30 + j),
        [0x3E, 0x3F, 0x40, 0x41, 0x42, 0x43]] ∧
    rx defaultParams [] v5 = some ([.completion 0x98 .done], []) ∧
    appendDrainAll [] [v4.take 3, (v4.drop 3).take 4, v4.drop 7] = some ([e4], []) := by decide +kernel

/-! ### Witnesses: for each statement with hypotheses, a state and operands that meet them, clause by clause -/

theorem eq_next_of {o : Host.Outcome State Fault Refusal} {t : State} (h : nextOf o = some t) : o = .next t := by
  cases o <;> simp_all [nextOf]

/-- A state with `DRAIN_ATOMIC = false`. -/
def interleaving (m : Bytes) : State := { holding m with params := { defaultParams with drainAtomic := false } }

theorem witness_CksumIsNegatedSum : List.Perm ([0x01, 0xFF] : Bytes) [0xFF, 0x01] ∧
    byteSum [0x80, 0x80] % 256 = byteSum [] % 256 ∧
    exec (.cksum [0x01]) State.reset = .next { State.reset with response := .byte 0xFF } ∧
    exec (.cksum [0xFF]) State.reset = .next { State.reset with response := .byte 0x01 } ∧ (0x00 : Byte) ≠ 0xFF :=
  ⟨by decide, by decide, eq_next_of (by decide), eq_next_of (by decide), by decide⟩
theorem witness_FrameCkUsesPlaceholder : 6 ≤ (bytesOf 6).length ∧ (bytesOf 5).length < 6 := by decide
theorem witness_GoodChecksumForms : 6 ≤ v1.length ∧ byteSum v1 % 256 = 255 ∧ 6 ≤ (bytesOf 6).length ∧
    byteSum (bytesOf 6) % 256 ≠ 255 := by decide
theorem witness_EncodeBuildsFrame : (bytesOf 256).length ≤ 256 ∧ 256 < (bytesOf 257).length := by decide +kernel
theorem witness_DecodeOfEncode : (bytesOf 256).length ≤ 256 := by decide +kernel
theorem witness_EncodeOfDecode :
    exec (.decode v1) State.reset = .next { State.reset with response := .envelope e1 } ∧
    exec (.encode .message 0x41 (v1.drop 6)) State.reset = .next { State.reset with response := .bytes v1 } :=
  ⟨eq_next_of (by decide), eq_next_of (by decide)⟩
theorem witness_ClearEmptiesBuffer : State.reset.buf = [] := by decide
theorem witness_AppendAddsOrDiscards : (bytesOf 512).length ≤ 512 ∧ 512 < (bytesOf 513).length := by decide +kernel
/-- (a) to (c): no magic; a magic and four more bytes; six bytes that declare one more. -/
theorem witness_DrainStepByLetters_waits : (holding [0x11]).draining = none ∧ 0xA5#8 ∉ (holding [0x11]).buf ∧
    (holding ([0x11] ++ 0xA5 :: bytesOf 4)).buf = [0x11] ++ 0xA5 :: bytesOf 4 ∧ (bytesOf 4).length < 5 ∧
    0xA5#8 ∉ ([0x11] : Bytes) ∧
    ([] : Bytes).length < (0x01 : Byte).toNat + 256 * (0x00 : Byte).toNat := by decide
/-- (d) and (e): a complete window that fails DECODE, and one that does not. -/
theorem witness_DrainStepByLetters_decides :
    (0x04 : Byte).toNat + 256 * (0x00 : Byte).toNat ≤ ([0x01, 0x40, 0x40, 0x00] : Bytes).length ∧
    exec (.decode ([0xA5, 0x22, 0x41, 0x04, 0x00, 0x73] ++ [0x01, 0x40, 0x40, 0x00])) (holding (v1.set 5 0x73))
      = .next { holding (v1.set 5 0x73) with response := .frameError .badChecksum } ∧
    exec (.decode ([0xA5, 0x22, 0x41, 0x04, 0x00, 0x72] ++ [0x01, 0x40, 0x40, 0x00])) (holding v1)
      = .next { holding v1 with response := .envelope e1 } :=
  ⟨by decide, eq_next_of (by decide), eq_next_of (by decide)⟩
theorem witness_DrainRepeatsDrainStep : (holding v1).draining = none ∧ (holding v1).params.drainAtomic = true := by
  decide
theorem witness_DrainIsBounded :
    exec .drainStep (holding v1) = .next { holding [] with response := .step (.emit e1) } ∧
    exec .drainStep (holding [0xA5, 0, 0, 0, 0, 0]) = .next { holding [0, 0, 0, 0, 0] with response := .step .cont } ∧
    exec .drain (holding v1) = .next { holding [] with response := .envelopes [e1] } ∧
    DrainSteps (holding []) 1 [] { holding [] with response := .step .stop } :=
  ⟨eq_next_of (by decide), eq_next_of (by decide), eq_next_of (by decide),
    .stop (eq_next_of (by decide)) rfl⟩
theorem witness_DrainLeavesHeadPending :
    exec .drain (holding [0x11, 0xA5]) = .next { holding [0xA5] with response := .envelopes [] } ∧
    exec .drainStep (holding [0x11]) = .next { holding [] with response := .step .stop } :=
  ⟨eq_next_of (by decide), eq_next_of (by decide)⟩
/-- With `DRAIN_ATOMIC = false`: a DRAIN whose first step stops, and the later step that ends one in progress. -/
theorem witness_DrainLeavesHeadPending_interleaving :
    exec .drain (interleaving [0x11, 0xA5]) = .next { interleaving [0xA5] with response := .envelopes [] } ∧
    ({ interleaving [0x11, 0xA5] with draining := some [e5] } : State).draining ≠ none ∧
    step { interleaving [0x11, 0xA5] with draining := some [e5] }
      = .next { interleaving [0xA5] with response := .envelopes [e5] } ∧ (interleaving [0xA5]).draining = none :=
  ⟨eq_next_of (by decide), by decide, eq_next_of (by decide), by decide⟩
theorem witness_ResynchronisesPastGarbage : ValidFrame v5 e5 ∧ 0xA5#8 ∉ ([0x00, 0xFF, 0x13] : Bytes) ∧
    (holding ([0x00, 0xFF, 0x13] ++ v5)).buf = [0x00, 0xFF, 0x13] ++ v5 := by decide
/-- A false head one byte before the frame, which declares more than is there; and a complete one that fails. -/
theorem witness_ResynchronisesPastGarbage_falseHead :
    (0xA5 :: v5).length < 6 + (((0xA5 :: v5).getD 3 0).toNat + 256 * ((0xA5 :: v5).getD 4 0).toNat) ∧
    6 + (((0xA5 :: (bytesOf 5 ++ v5)).getD 3 0).toNat + 256 * ((0xA5 :: (bytesOf 5 ++ v5)).getD 4 0).toNat)
      ≤ (0xA5 :: (bytesOf 5 ++ v5)).length ∧
    exec (.decode ((0xA5 :: (bytesOf 5 ++ v5)).take 6)) (holding (0xA5 :: (bytesOf 5 ++ v5)))
      = .next { holding (0xA5 :: (bytesOf 5 ++ v5)) with response := .frameError .badKind } :=
  ⟨by decide, by decide, eq_next_of (by decide)⟩
theorem witness_PartialFramesJoin : ValidFrame v4 e4 ∧ [v4.take 3, (v4.drop 3).take 4].flatten ++ v4.drop 7 = v4 ∧
    v4.drop 7 ≠ [] ∧ (holding []).buf = [] ∧ (holding []).draining = none ∧ (holding []).params.drainAtomic = true ∧
    v4.take 17 ++ v4.drop 17 = v4 ∧ v4.drop 17 ≠ [] := by decide
theorem witness_CorruptedChecksumYieldsNothing : ValidFrame v4 e4 ∧ (0x4C : Byte) ≠ e4.checksum ∧
    (holding (v4.set 5 0x4C)).buf = v4.set 5 0x4C ∧ 0xA5#8 ∉ (holding (v4.set 5 0x4C)).buf.drop 1 := by decide
theorem witness_DrainEmitsFramesInOrder :
    exec .drain (holding v1) = .next { holding [] with response := .envelopes [e1] } ∧
    (∀ ge ∈ [([0x11], e4), (([] : Bytes), e5)], 0xA5#8 ∉ ge.1 ∧ ValidEnvelope ge.2) ∧ 0xA5#8 ∉ ([0x22] : Bytes) ∧
    (holding ([0x11] ++ v4 ++ v5 ++ [0x22])).buf
      = [([0x11], e4), (([] : Bytes), e5)].flatMap (fun ge => ge.1 ++ frameBytes ge.2) ++ [0x22] :=
  ⟨eq_next_of (by decide), by decide, by decide, by decide⟩
/-- A declared length of 507 with a full buffer, and what is appended up to and beyond 512. -/
theorem witness_StalledHeadHoldsDrain : ([0xA5, 0x00, 0x00, 0xFB, 0x01] ++ bytesOf 507 : Bytes).length ≤ 512 ∧
    ([0xA5, 0x00, 0x00, 0xFB, 0x01] ++ bytesOf 507 : Bytes).length < 6 + ((0xFB : Byte).toNat + 256 * (0x01 : Byte).toNat) ∧
    506 < (0xFB : Byte).toNat + 256 * (0x01 : Byte).toNat ∧
    ([0xA5, 0x00, 0x00, 0xFB, 0x01] ++ bytesOf 506 : Bytes).length + (bytesOf 1).length ≤ 512 ∧
    512 < ([0xA5, 0x00, 0x00, 0xFB, 0x01] ++ bytesOf 507 : Bytes).length + (bytesOf 1).length := by decide +kernel
theorem witness_SplitCutsTwentyByteChunks : (6 ≤ (bytesOf 6).length ∧ (bytesOf 6).length ≤ 262) ∧
    6 ≤ (bytesOf 262).length ∧ (bytesOf 262).length ≤ 262 := by decide +kernel
/-- Each row of the default table, and the payload without a header. -/
theorem witness_DispatchSelectsParser : State.reset.params.dispatchTable = defaultDispatchTable ∧
    (e4.len = e4.payload.length ∧ e4.len ≤ 256 ∧ e4.kind = .message ∧ e4.payload.take 4 = [0x01, 0x41, 0x40, 0x00]) ∧
    (e5.kind = .message ∧ e5.payload.take 4 = [0x01, 0xF7, 0xA3, 0x00]) ∧
    headerBytes State.reset.params.hdrStatusRich = [0x01, 0x40, 0x40, 0x00] ∧ (bytesOf 3).length < 4 := by decide
theorem witness_DispatchIsTotal : (⟨.ack, 0, 256, 0, bytesOf 256⟩ : Envelope).len = (bytesOf 256).length := by
  decide +kernel
/-- A table whose first row asks for the header as an Ack Record; the empty table. -/
theorem witness_DispatchFollowsTable : e1.len = e1.payload.length ∧ e1.len ≤ 256 ∧
    e1.payload.take 4 = headerBytes ⟨0x01, 0x40, 0x40, 0x00⟩ ∧ 4 ≤ e1.payload.length ∧
    ({ defaultParams with dispatchTable := [⟨.ack, .any, .ackRecord⟩, ⟨.message, .exact ⟨0x01, 0x40, 0x40, 0x00⟩, .ackRecord⟩] }
        : Params).dispatchTable
      = [⟨.ack, .any, .ackRecord⟩] ++ ⟨e1.kind, .exact ⟨0x01, 0x40, 0x40, 0x00⟩, .ackRecord⟩ :: [] ∧
    (∀ r ∈ ([⟨.ack, .any, .ackRecord⟩] : List DispatchRow), r.kind ≠ e1.kind) ∧
    ∀ r ∈ ([] : List DispatchRow), r.kind ≠ e1.kind := by decide
theorem witness_ParseStatusRichResult : 4 ≤ (v1.drop 6).length ∧
    (v1.drop 6).take 4 = headerBytes State.reset.params.hdrStatusRich := by decide
theorem witness_ParseAckResult : (⟨0x01, 0xF0, 0xA3, 0x00⟩ : Header) ≠ State.reset.params.hdrStatusRich := by decide
theorem witness_StatusReadingsInRange : exec (.dispatch e4) State.reset
    = .next { State.reset with response := .parsed (compact 0xB5 0x00 0x00 0xB3 0x8F false) } :=
  eq_next_of (by decide)
theorem witness_FailureValuesCarryRawBytes : State.reset.params.dispatchTable = defaultDispatchTable ∧
    exec (.dispatch e1) State.reset
      = .next { State.reset with response := .parsed (.unrecognized .message 0x41 e1.payload) } ∧
    exec (.dispatch ⟨.message, 0x12, 4, 0x87, [0x01, 0xF7, 0xA3, 0x00]⟩) State.reset = .next { State.reset with
      response := .parsed (.rejected .truncated .message 0x12 [0x01, 0xF7, 0xA3, 0x00]) } :=
  ⟨by decide, eq_next_of (by decide), eq_next_of (by decide)⟩
/-- The start-heating and delayed-start operands at the ends of their range, and ENC_SET_MY_TEMP at 255; the table. -/
theorem witness_commandOperands : (65535 ≤ 65535 ∧ 0 ≤ 65535) ∧ 255 ≤ 255 ∧
    State.reset.params.dispatchTable = defaultDispatchTable := by decide
/-- One operand outside its domain for each row of R196's list, at the first value outside. -/
theorem witness_OutOfDomainIsRefused : 256 < (bytesOf 257).length ∧ 512 < (bytesOf 513).length ∧
    (bytesOf 5).length < 6 ∧ (bytesOf 3).length < 4 ∧ (bytesOf 4).take 4 ≠ [0x01, 0x41, 0x40, 0x00] ∧
    (bytesOf 4).take 4 ≠ headerBytes State.reset.params.hdrStatusRich ∧
    (v1.drop 6).take 4 = headerBytes State.reset.params.hdrStatusRich ∧
    (bytesOf 4).take 4 ≠ [0x01, 0xF7, 0xA3, 0x00] ∧ 65535 < 65536 ∧ 255 < 256 := by decide +kernel
theorem witness_ModelledDomainsRefuse : (bytesOf 5).length < 6 ∧ 262 < (bytesOf 263).length ∧
    (⟨.ack, 0, 5, 0, bytesOf 4⟩ : Envelope).len ≠ (bytesOf 4).length ∧
    ({ interleaving v1 with draining := some [] } : State).draining = some [] := by decide +kernel
/-- ShapeRowsSelectTheirParser: a valid Envelope of each shape. -/
theorem witness_ShapeRowsSelectTheirParser :
    (ValidEnvelope e4 ∧ (0x0C : Byte).toNat + 256 * (0x00 : Byte).toNat = e4.len ∧ e4.kind = .message ∧
      e4.payload = [0x01, 0x41, 0x40, 0x00] ++ e4.payload.drop 4) ∧
    (ValidEnvelope ⟨.ack, 0x09, 8, 0x79, [0x01, 0x40, 0x40, 0x00, 0x01, 0x04, 0xD4, 0x64]⟩ ∧
      ([0x01, 0x40, 0x40, 0x00, 0x01, 0x04, 0xD4, 0x64] : Bytes)
        = headerBytes State.reset.params.hdrStatusRich ++ [0x01, 0x04, 0xD4, 0x64]) ∧
    (ValidEnvelope e5 ∧ e5.payload = [0x01, 0xF7, 0xA3, 0x00] ++ [0x20]) ∧
    (ValidEnvelope ⟨.ack, 0x14, 4, 0x9C, [0x01, 0xF0, 0xA3, 0x00]⟩ ∧
      (⟨0x01, 0xF0, 0xA3, 0x00⟩ : Header) ≠ State.reset.params.hdrStatusRich) ∧
    ValidEnvelope ⟨.message, 0x18, 0, 0x20, []⟩ ∧
    wellFormed State.reset.params (.fUnrecognized .message 0x18 0x00 0x00 0x20 []) = true := by decide
theorem witness_DecodeEncodeRoundTrip : wellFormed defaultParams (.encStartHeat 65535 true 65535) = true ∧
    wellFormed defaultParams (.fUnrecognized .ack 0x17 0x03 0x00 0x9A [0x01, 0xF0, 0xA3]) = true := by decide
theorem witness_BareFramesReadAsTheirRow :
    wellFormed defaultParams (.fUnrecognized .message 0 0 0 0 (headerBytes ⟨0, 0, 0, 0⟩ ++ [])) = true ∧
    ([] : Bytes).length < 4 ∧ (bytesOf 3).length < 4 := by decide
/-- StepRunsDecodedRequest and UnassignedOpselRefused: a waiting packet. -/
theorem witness_waitingPacket : ({ State.reset with port := [[0b00100]] } : State).draining = none ∧
    ({ State.reset with port := [[0b00100]] } : State).port = [0b00100] :: [] ∧
    decode State.reset.params [0b00100] = .ok .clear ∧ 20 ≤ (0b10100 : Byte).toNat ∧ (0b11111 : Byte).toNat ≤ 31 := by
  decide
theorem witness_IdleStepHoldsState : State.reset.draining = none ∧ State.reset.port = [] := by decide
/-- StepKeepsInvariant: a DRAIN in progress with the invariant, and its next step. -/
theorem witness_StepKeepsInvariant : Inv { interleaving v5 with draining := some [e4] } ∧
    step { interleaving v5 with draining := some [e4] } = .next { interleaving [] with draining := some [e4, e5] } :=
  ⟨by decide, eq_next_of (by decide)⟩
/-- ParametersNeverChange and OnlyBufferOperationsWrite: a request of each kind that completes. -/
theorem witness_OnlyBufferOperationsWrite : touchesBuffer .encStatusReq = false ∧
    exec .encStatusReq (holding v1) = .next { holding v1 with response := .bytes [0x01, 0x40, 0x40, 0x00] } ∧
    exec .clear (holding v1) = .next (holding []) ∧ exec (.append v1) (holding []) = .next (holding v1) :=
  ⟨by decide, eq_next_of (by decide), eq_next_of (by decide), eq_next_of (by decide)⟩
theorem witness_PureRequestsReadNoState : touchesBuffer (.decode v1) = false ∧
    (holding v1).params = State.reset.params := by decide
theorem witness_UninterruptedDrainIsAtomic :
    ({ interleaving v1 with port := [[0b00111]] } : State).draining = none ∧
    ({ interleaving v1 with port := [[0b00111]] } : State).params.drainAtomic = false ∧
    (interleaving v1).sched = [] ∧ ([[0b00111]] : List Bytes) = encode (interleaving v1).params .drain :: [] ∧
    exec .drain { interleaving v1 with params := { (interleaving v1).params with drainAtomic := true } }
      = .next { holding [] with response := .envelopes [e1] } :=
  ⟨by decide, by decide, by decide, by decide, eq_next_of (by decide)⟩
theorem witness_RequestsFallBetweenDrainSteps :
    ({ interleaving v1 with draining := some [], sched := [true], port := [[0b00100]] } : State).draining = some [] ∧
    decode (interleaving v1).params [0b00100] = .ok .clear ∧ isDrainer .clear = false := by decide
/-- The DRAIN goes on: there is no choice for a request, or the choice finds a second drainer, a packet that is no
request, or no packet. -/
theorem witness_RequestsFallBetweenDrainSteps_goesOn :
    ({ interleaving v1 with draining := some [], sched := [false] } : State).sched ≠ true :: [] ∧
    ({ interleaving v1 with draining := some [], sched := [true], port := [[0b00111]] } : State).port = [0b00111] :: [] ∧
    decode (interleaving v1).params [0b00111] = .ok .drain ∧ isDrainer .drain = true ∧
    decode (interleaving v1).params [0b10100] = .error .unknownOpsel ∧ (interleaving v1).port = [] := by decide
/-- A choice that finds a second drainer is used up, and the DRAIN takes its step. -/
theorem test_drainer_waits :
    nextOf (step { interleaving v1 with draining := some [], sched := [true], port := [[0b00111]] })
      = some { interleaving [] with draining := some [e1], port := [[0b00111]] } := by decide
theorem witness_WellFormedRequestsComplete : wellFormed State.reset.params .drain = true ∧
    (isDrainer .drain = true → State.reset.draining = none) := by decide

end Sys2Proof.Tests
end

section
/-! PROOFS. The statements about the state (10_state.md): the invariant, what each request can write, and what a DRAIN
leaves in the buffer. -/

namespace Sys2Proof.Machine

/-! ### One DRAIN_STEP and one DRAIN -/

/-- A DRAIN_STEP never grows the buffer. -/
theorem drainStep_length_le {m m' : Memory} {r : StepResult} (h : drainStep m = .ok (r, m')) :
    m'.length ≤ m.length := by
  obtain ⟨hstop, hcont, hemit⟩ := drainStep_length h
  cases r with
  | stop => exact hstop rfl
  | cont => have := hcont rfl; omega
  | emit e => have := hemit e rfl; omega

/-- What a DRAIN_STEP emits is a valid Envelope. -/
theorem validEnvelope_of_drainStep_emit {m m' : Memory} {e : Envelope} (h : drainStep m = .ok (.emit e, m')) :
    ValidEnvelope e := by
  obtain ⟨r, m'', h', hc⟩ := drainStep_cases m
  obtain ⟨rfl, rfl⟩ : .emit e = r ∧ m' = m'' := by simpa [h] using h'
  obtain ⟨hr, -⟩ | ⟨hr, -⟩ | ⟨e', f, hr, hv, -⟩ := hc
  · cases hr
  · cases hr
  · cases hr
    exact hv.2

/-- DRAIN as one action never grows the buffer and leaves the head pending (rule R20). -/
theorem drainAll_spec {m m' : Memory} {es : List Envelope} (h : drainAll m = .ok (es, m')) :
    m'.length ≤ m.length ∧ HeadPending m' := by
  obtain ⟨es', m'', h', hp, hb, -⟩ := drainAll_ok m
  obtain ⟨rfl, rfl⟩ : es = es' ∧ m' = m'' := by simpa [h] using h'
  exact ⟨by omega, hp⟩

/-! ### All that a step of a DRAIN in progress can do -/

/-- What one step of a DRAIN that has emitted `out` makes of a state: it ends the DRAIN, or goes on without or with an
Envelope emitted (rule R38; log 4). -/
inductive AdvanceEffect (out : List Envelope) (s : State) : State → Prop where
  | ends {m : Memory} (h : drainStep s.buf = .ok (.stop, m)) :
      AdvanceEffect out s { s with buf := m, draining := none, response := .envelopes out }
  | slides {m : Memory} (h : drainStep s.buf = .ok (.cont, m)) :
      AdvanceEffect out s { s with buf := m, draining := some out, response := .noResult }
  | emits {m : Memory} {e : Envelope} (h : drainStep s.buf = .ok (.emit e, m)) :
      AdvanceEffect out s { s with buf := m, draining := some (out ++ [e]), response := .noResult }

theorem advanceEffect_of_drainAdvance {out : List Envelope} {s t : State} (h : drainAdvance out s = .next t) :
    AdvanceEffect out s t := by
  obtain ⟨r, m, hs, ha⟩ := drainAdvance_cases out s
  rw [h] at ha
  obtain rfl := Host.Outcome.next.inj ha
  cases r with
  | stop => exact .ends hs
  | cont => exact .slides hs
  | emit e => exact .emits hs

namespace AdvanceEffect

variable {out : List Envelope} {s t : State}

/-- Such a step writes BUF, the returned value and the DRAIN in progress only. -/
theorem frame (h : AdvanceEffect out s t) :
    t = { s with buf := t.buf, response := t.response, draining := t.draining } := by
  cases h <;> rfl

/-- When no DRAIN is in progress after the step, the step ended one, and the head is pending. -/
theorem headPending (h : AdvanceEffect out s t) (hd : t.draining = none) : HeadPending t.buf := by
  cases h with
  | ends h => exact headPending_of_drainStep_stop h
  | slides => cases hd
  | emits => cases hd

/-- The step gives the invariant when the DRAIN may be in progress and has emitted valid Envelopes only. -/
theorem inv (h : AdvanceEffect out s t) (hlen : s.buf.length ≤ 512) (ha : s.params.drainAtomic = false)
    (hv : ∀ e ∈ out, ValidEnvelope e) : Inv t := by
  have hna : ¬ s.params.drainAtomic = true := by simp [ha]
  cases h with
  | ends h => exact ⟨(drainStep_length_le h).trans hlen, fun _ => rfl, by simp⟩
  | slides h => exact ⟨(drainStep_length_le h).trans hlen, fun hat => absurd hat hna, hv⟩
  | emits h =>
    refine ⟨(drainStep_length_le h).trans hlen, fun hat => absurd hat hna, fun x hx => ?_⟩
    obtain hx | hx := List.mem_append.mp hx
    · exact hv x hx
    · exact List.mem_singleton.mp hx ▸ validEnvelope_of_drainStep_emit h

end AdvanceEffect

/-! ### All that a request can do -/

/-- What a completed request makes of a state (rule R10): one case for the requests that do not touch BUF, one for each
of the four that do, and one for a DRAIN that is no single action. -/
inductive RequestEffect (s : State) : Instr → State → Prop where
  | answers {i : Instr} {r : Response} (hi : touchesBuffer i = false) : RequestEffect s i { s with response := r }
  | clears : RequestEffect s .clear (s.respondWith emptied .noResult)
  | appends {c : Bytes} (hc : c.length ≤ 512) :
      RequestEffect s (.append c) (s.respondWith (appendChunk s.buf c) .noResult)
  | drainsOnce {r : StepResult} {m : Memory} (hd : s.draining = none) (h : drainStep s.buf = .ok (r, m)) :
      RequestEffect s .drainStep (s.respondWith m (.step r))
  | drainsAll {es : List Envelope} {m : Memory} (hd : s.draining = none) (ha : s.params.drainAtomic = true)
      (h : drainAll s.buf = .ok (es, m)) :
      RequestEffect s .drain (s.respondWith m (.envelopes es))
  | beginsDrain {t : State} (hd : s.draining = none) (ha : s.params.drainAtomic = false)
      (h : AdvanceEffect [] s t) : RequestEffect s .drain t

/-- DRAIN completes only when none is in progress (rule R232). -/
theorem draining_eq_none_of_execDrain {s t : State} (h : execDrain s = .next t) : s.draining = none := by
  cases hd : s.draining with
  | none => rfl
  | some out => simp [execDrain, hd] at h

/-- DRAIN_STEP completes only when no DRAIN is in progress (rule R232). -/
theorem draining_eq_none_of_execDrainStep {s t : State} (h : execDrainStep s = .next t) : s.draining = none := by
  cases hd : s.draining with
  | none => rfl
  | some out => simp [execDrainStep, hd] at h

theorem requestEffect_of_execDrainStep {s t : State} (h : execDrainStep s = .next t) :
    RequestEffect s .drainStep t := by
  have hd := draining_eq_none_of_execDrainStep h
  obtain ⟨r, m, hs, he⟩ := execDrainStep_cases s hd
  rw [h] at he
  obtain rfl := Host.Outcome.next.inj he
  exact .drainsOnce hd hs

theorem requestEffect_of_execDrain {s t : State} (h : execDrain s = .next t) : RequestEffect s .drain t := by
  have hd := draining_eq_none_of_execDrain h
  cases ha : s.params.drainAtomic with
  | true =>
    obtain ⟨es, m, hs, he⟩ := execDrain_atomic s hd ha
    rw [h] at he
    obtain rfl := Host.Outcome.next.inj he
    exact .drainsAll hd ha hs
  | false =>
    rw [execDrain_nonatomic s hd ha] at h
    exact .beginsDrain hd ha (advanceEffect_of_drainAdvance h)

theorem requestEffect_of_execAppend {c : Bytes} {s t : State} (h : execAppend c s = .next t) :
    RequestEffect s (.append c) t := by
  unfold execAppend at h
  split at h
  · next hc =>
    obtain rfl := Host.Outcome.next.inj h
    exact .appends hc
  · cases h

theorem requestEffect_of_exec {i : Instr} {s t : State} (h : exec i s = .next t) : RequestEffect s i t := by
  cases hi : touchesBuffer i with
  | false =>
    obtain ⟨r, rfl⟩ := exec_pure_cases hi h
    exact .answers hi
  | true =>
    cases i with
    | clear =>
      obtain rfl := Host.Outcome.next.inj h
      exact .clears
    | append c => exact requestEffect_of_execAppend h
    | drainStep => exact requestEffect_of_execDrainStep h
    | drain => exact requestEffect_of_execDrain h
    | _ => cases hi

namespace RequestEffect

variable {i : Instr} {s t : State}

/-- A request writes BUF, the returned value and the DRAIN in progress only. -/
theorem frame (h : RequestEffect s i t) :
    t = { s with buf := t.buf, response := t.response, draining := t.draining } := by
  cases h with
  | beginsDrain _ _ h => exact h.frame
  | _ => rfl

/-- A request other than DRAIN writes BUF and the returned value only. -/
theorem frame_of_ne_drain (h : RequestEffect s i t) (hi : i ≠ .drain) :
    t = { s with buf := t.buf, response := t.response } := by
  cases h with
  | drainsAll => exact absurd rfl hi
  | beginsDrain => exact absurd rfl hi
  | _ => rfl

/-- A request that does not touch BUF writes the returned value only. -/
theorem frame_of_pure (h : RequestEffect s i t) (hi : touchesBuffer i = false) :
    t = { s with response := t.response } := by
  cases h with
  | answers => rfl
  | _ => cases hi

theorem clear_response (h : RequestEffect s .clear t) : t.response = .noResult := by
  cases h with
  | answers hi => cases hi
  | clears => rfl

theorem append_response {c : Bytes} (h : RequestEffect s (.append c) t) : t.response = .noResult := by
  cases h with
  | answers hi => cases hi
  | appends => rfl

/-- A DRAIN request that leaves none in progress leaves the head pending (rule R20). -/
theorem drain_headPending (h : RequestEffect s .drain t) (hd : t.draining = none) : HeadPending t.buf := by
  cases h with
  | answers hi => cases hi
  | drainsAll _ _ h => exact (drainAll_spec h).2
  | beginsDrain _ _ h => exact h.headPending hd

/-- A DRAIN taken as one action leaves the head pending (rule R20). -/
theorem atomicDrain_headPending (h : RequestEffect s .drain t) (ha : s.params.drainAtomic = true) :
    HeadPending t.buf := by
  cases h with
  | answers hi => cases hi
  | drainsAll _ _ h => exact (drainAll_spec h).2
  | beginsDrain _ hna => simp [ha] at hna

/-- A DRAIN_STEP that answers STOP leaves the head pending (rule R20). -/
theorem drainStep_headPending (h : RequestEffect s .drainStep t) (hr : t.response = .step .stop) :
    HeadPending t.buf := by
  cases h with
  | answers hi => cases hi
  | drainsOnce _ h =>
    obtain rfl := Response.step.inj hr
    exact headPending_of_drainStep_stop h

end RequestEffect

/-! ### The invariant -/

/-- Another buffer content keeps the invariant when it fits: the invariant says nothing else about BUF. -/
theorem inv_respondWith {s : State} {m : Memory} (r : Response) (hs : Inv s) (hm : m.length ≤ 512) :
    Inv (s.respondWith m r) :=
  ⟨hm, hs.2⟩

theorem RequestEffect.inv {i : Instr} {s t : State} (h : RequestEffect s i t) (hs : Inv s) : Inv t := by
  have hlen := hs.1
  cases h with
  | answers => exact hs
  | clears => exact inv_respondWith _ hs (by simp [emptied])
  | appends hc => exact inv_respondWith _ hs ((Memory.wf_iff _).mp (appendChunk_wf _ _ hc))
  | drainsOnce _ h => exact inv_respondWith _ hs ((drainStep_length_le h).trans hlen)
  | drainsAll _ _ h => exact inv_respondWith _ hs ((drainAll_spec h).1.trans hlen)
  | beginsDrain _ ha h => exact h.inv hlen ha (by simp)

/-- A step of the DRAIN in progress keeps the invariant. -/
theorem AdvanceEffect.inv_of_draining {out : List Envelope} {s t : State} (h : AdvanceEffect out s t)
    (hd : s.draining = some out) (hs : Inv s) : Inv t := by
  obtain ⟨hlen, hat, hv⟩ := hs
  have ha : s.params.drainAtomic = false := by
    cases ha : s.params.drainAtomic with
    | false => rfl
    | true => cases (hat ha).symm.trans hd
  exact h.inv hlen ha (by simpa [hd] using hv)

/-! ### The statements -/

/-- Settles O52: reset holds no byte and no DRAIN in progress. -/
theorem invariantAtReset : Obligations.InvariantAtReset := by
  refine ⟨?_, fun _ => rfl, ?_⟩
  · simp [State.reset]
  · simp [State.reset]

/-- Settles O53, by what a step can be: the fetch changes nothing the invariant speaks of, and the request or the step
of the DRAIN in progress that it hands on keeps the invariant. -/
theorem stepKeepsInvariant : Obligations.StepKeepsInvariant := by
  intro s t hs h
  obtain ⟨-, rfl⟩ | ⟨i, s', hf, he⟩ | ⟨out, s', hf, ha⟩ := step_next_cases h
  · exact hs
  · obtain ⟨port, sched, rfl⟩ := fetch_state hf
    exact (requestEffect_of_exec he).inv hs
  · obtain ⟨hd, sched, rfl⟩ := fetch_advance hf
    exact (advanceEffect_of_drainAdvance ha).inv_of_draining hd hs

/-- Settles O14: the step that ends a DRAIN is a step of the DRAIN in progress, since no request that falls between its
steps ends it. -/
theorem drainLeavesHeadPending : Obligations.DrainLeavesHeadPending := by
  intro s t
  refine ⟨fun ha h => (requestEffect_of_exec h).atomicDrain_headPending ha,
    fun h => (requestEffect_of_exec h).drain_headPending, fun hd h ht => ?_,
    fun h => (requestEffect_of_exec h).drainStep_headPending⟩
  obtain ⟨-, rfl⟩ | ⟨i, s', hf, he⟩ | ⟨out, s', -, ha⟩ := step_next_cases h
  · exact absurd ht hd
  · have hkeep := exec_draining_of_mayInterleave (fetch_run_mayInterleave hd hf) he
    obtain ⟨port, sched, rfl⟩ := fetch_state hf
    exact absurd (hkeep.symm.trans ht) hd
  · exact (advanceEffect_of_drainAdvance ha).headPending ht

theorem exec_params {i : Instr} {s t : State} (h : exec i s = .next t) : t.params = s.params := by
  rw [(requestEffect_of_exec h).frame]

/-- Settles O55: neither a request nor a step of a DRAIN in progress writes the parameters, and the fetch does not. -/
theorem parametersNeverChange : Obligations.ParametersNeverChange := by
  refine fun s t => ⟨fun i h => exec_params h, fun h => ?_⟩
  obtain ⟨-, rfl⟩ | ⟨i, s', hf, he⟩ | ⟨out, s', hf, ha⟩ := step_next_cases h
  · rfl
  · obtain ⟨port, sched, rfl⟩ := fetch_state hf
    have hp := exec_params he
    exact hp
  · obtain ⟨-, sched, rfl⟩ := fetch_advance hf
    rw [(advanceEffect_of_drainAdvance ha).frame]

/-- Settles O56, by all that a request can do. -/
theorem onlyBufferOperationsWrite : Obligations.OnlyBufferOperationsWrite := by
  intro i s t h
  have he := requestEffect_of_exec h
  refine ⟨he.frame_of_pure, he.frame_of_ne_drain, he.frame, ?_⟩
  rintro (rfl | ⟨c, rfl⟩)
  · exact he.clear_response
  · exact he.append_response

end Sys2Proof.Machine
end

section
/-! PROOFS. The statements about the order of requests and the DRAIN that is no single action (20_memory.md): what the
fetch hands on, that nothing faults, and that an uninterrupted DRAIN ends as the atomic one. -/

namespace Sys2Proof.Machine

/-! ### What the fetch hands on -/

section
variable {s s' : State} {i : Instr} {out : List Envelope} {packet : Bytes} {ports : List Bytes}

/-- A step is exec of the request the fetch hands on. -/
theorem step_of_fetch_run (h : fetch s = .run i s') : step s = exec i s' := by
  rw [step, h]

/-- A step is the next step of the DRAIN the fetch hands on. -/
theorem step_of_fetch_advance (h : fetch s = .advance out s') : step s = drainAdvance out s' := by
  rw [step, h]

/-- With no DRAIN in progress the requests of the port are performed in order (rule R37). -/
theorem fetch_of_not_draining (hd : s.draining = none) : fetch s = nextRequest s := by
  rw [fetch, hd]

/-- The request the oldest packet stands for, with that packet taken off the port. -/
theorem nextRequest_of_decode (hp : s.port = packet :: ports) (hi : decode s.params packet = .ok i) :
    nextRequest s = .run i { s with port := ports } := by
  simp only [nextRequest, hp, hi]

/-- All that makes the port hand on a request. -/
theorem nextRequest_eq_run (h : nextRequest s = .run i s') :
    ∃ packet ports, s.port = packet :: ports ∧ decode s.params packet = .ok i := by
  cases hp : s.port with
  | nil => simp [nextRequest, hp] at h
  | cons packet ports =>
    cases hi : decode s.params packet with
    | error e => simp [nextRequest, hp, hi] at h
    | ok j =>
      rw [nextRequest_of_decode hp hi, Next.run.injEq] at h
      exact ⟨packet, ports, rfl, h.1 ▸ hi⟩

/-- The requests that may fall between two steps of a DRAIN are those that are no drainer (rules R38, R232). -/
theorem mayInterleave_eq (i : Instr) : mayInterleave i = !isDrainer i := by
  cases i <;> rfl

/-- A request that is no drainer falls between two steps of a DRAIN. -/
theorem nextInterleaved_of_run (h : nextRequest s = .run i s') (hi : isDrainer i = false) :
    nextInterleaved out s = .run i s' := by
  simp [nextInterleaved, h, mayInterleave_eq, hi]

/-- Where the port hands on no request but a drainer, the DRAIN goes on. -/
theorem nextInterleaved_goes_on (h : ∀ i s', nextRequest s = .run i s' → isDrainer i = true) :
    nextInterleaved out s = .advance out s := by
  cases hr : nextRequest s with
  | run i s' => simp [nextInterleaved, hr, mayInterleave_eq, h i s' hr]
  | idle | advance | reject => simp only [nextInterleaved, hr]

/-- Where the environment chooses so, the fetch looks at the port between two steps of a DRAIN (rule R38). -/
theorem fetch_of_choice {choices : List Bool} (hd : s.draining = some out) (hs : s.sched = true :: choices) :
    fetch s = nextInterleaved out { s with sched := choices } := by
  simp only [fetch, hd, hs]

/-- Without such a choice the DRAIN goes on. -/
theorem fetch_of_no_choice (hd : s.draining = some out) (hs : ∀ choices, s.sched ≠ true :: choices) :
    fetch s = .advance out { s with sched := s.sched.tail } := by
  obtain ⟨buf, params, port, response, draining, sched⟩ := s
  obtain rfl : draining = some out := hd
  cases sched with
  | nil => rfl
  | cons b choices =>
    cases b with
    | false => rfl
    | true => exact absurd rfl (hs choices)

/-- The DRAIN goes on, and the choice is used up, where no request that is no drainer is chosen and waiting (log 4). -/
theorem fetch_goes_on (hd : s.draining = some out)
    (h : ∀ packet ports choices i, s.sched = true :: choices → s.port = packet :: ports →
      decode s.params packet = .ok i → isDrainer i = true) :
    fetch s = .advance out { s with sched := s.sched.tail } := by
  by_cases hs : ∃ choices, s.sched = true :: choices
  · obtain ⟨choices, hs⟩ := hs
    rw [fetch_of_choice hd hs, hs, List.tail_cons]
    refine nextInterleaved_goes_on fun i s' hr => ?_
    obtain ⟨packet, ports, hp, hi⟩ := nextRequest_eq_run hr
    exact h packet ports choices i hs hp hi
  · exact fetch_of_no_choice hd (not_exists.mp hs)

/-- With no choice left, a run goes on with the next step of the DRAIN in progress. -/
theorem run_succ_of_drainAdvance (h : drainAdvance out s = .next s') (hd : s.draining = some out) (hs : s.sched = [])
    (n : Nat) : Sys2Proof.core.run (n + 1) s = Sys2Proof.core.run n s' := by
  have hf := fetch_of_no_choice hd (by simp [hs])
  rw [hs, List.tail_nil, ← hs] at hf
  exact run_succ_of_step ((step_of_fetch_advance hf).trans h) n

/-! ### Nothing faults -/

variable {f : Fault}

theorem complete_ne_fault {r : Response} : complete s r ≠ .fault f := nofun

theorem completeIf_ne_fault {d : Bool} {why : Refusal} {r : Response} : completeIf d why s r ≠ .fault f := by
  cases d with
  | true => exact complete_ne_fault
  | false => exact nofun

theorem drainAdvance_ne_fault : drainAdvance out s ≠ .fault f := by
  obtain ⟨r, m, -, h⟩ := drainAdvance_cases out s
  rw [h]
  exact nofun

theorem execAppend_ne_fault {chunk : Bytes} : execAppend chunk s ≠ .fault f := by
  unfold execAppend
  split <;> exact nofun

theorem execDrainStep_ne_fault : execDrainStep s ≠ .fault f := by
  cases hd : s.draining with
  | some out => simp [execDrainStep, hd]
  | none =>
    obtain ⟨r, m, -, h⟩ := execDrainStep_cases s hd
    rw [h]
    exact nofun

theorem execDrain_ne_fault : execDrain s ≠ .fault f := by
  cases hd : s.draining with
  | some out => simp [execDrain, hd]
  | none =>
    cases ha : s.params.drainAtomic with
    | false =>
      rw [execDrain_nonatomic s hd ha]
      exact drainAdvance_ne_fault
    | true =>
      obtain ⟨es, m, -, h⟩ := execDrain_atomic s hd ha
      rw [h]
      exact nofun

/-- No request faults: those that do not touch BUF complete or are refused, and the reads of BUF stand behind length
tests (rule R45). -/
theorem exec_ne_fault (i : Instr) : exec i s ≠ .fault f := by
  cases i
  case clear => exact nofun
  case append chunk => exact execAppend_ne_fault
  case drainStep => exact execDrainStep_ne_fault
  case drain => exact execDrain_ne_fault
  case frameCk | encode | split | dispatch | parseStatusCompact | parseStatusRich | parseAck | parseCompletion |
      encStartHeat | encDelayedStartBody | encSetMyTemp => exact completeIf_ne_fault
  all_goals exact complete_ne_fault

theorem step_ne_fault : step s ≠ .fault f := by
  cases h : fetch s with
  | idle => simp [step, h]
  | reject why => simp [step, h]
  | run i s' => exact step_of_fetch_run h ▸ exec_ne_fault i
  | advance out s' => exact step_of_fetch_advance h ▸ drainAdvance_ne_fault

end

/-! ### A DRAIN that nothing interrupts -/

/-- From a step of a DRAIN that has emitted `out`, with no choice of the environment left, further steps lead to the end
of the DRAIN, which has emitted after `out` what the atomic DRAIN emits and leaves the buffer that one leaves. The
buffer gets shorter with every step that does not stop (rule R115). -/
theorem run_after_drainAdvance (out : List Envelope) (s : State) (hs : s.sched = []) :
    ∃ es m t n, drainAll s.buf = .ok (es, m) ∧ drainAdvance out s = .next t ∧
      Sys2Proof.core.run n t = .next { s with buf := m, draining := none, response := .envelopes (out ++ es) } := by
  obtain ⟨r, m₁, h, ha⟩ := drainAdvance_cases out s
  obtain ⟨-, hcont, hemit⟩ := drainStep_length h
  cases r with
  | stop => exact ⟨[], m₁, _, 0, drainAll_of_stop h, ha, by rw [List.append_nil]; rfl⟩
  | cont =>
    have hshort := hcont rfl
    obtain ⟨es, m, t, n, hall, hnext, hrun⟩ :=
      run_after_drainAdvance out { s with buf := m₁, draining := some out, response := .noResult } hs
    refine ⟨es, m, _, n + 1, (drainAll_of_cont h).trans hall, ha, ?_⟩
    exact (run_succ_of_drainAdvance hnext rfl hs n).trans hrun
  | emit e =>
    have hshort := hemit e rfl
    obtain ⟨es, m, t, n, hall, hnext, hrun⟩ :=
      run_after_drainAdvance (out ++ [e])
        { s with buf := m₁, draining := some (out ++ [e]), response := .noResult } hs
    refine ⟨e :: es, m, _, n + 1, drainAll_of_emit h hall, ha, ?_⟩
    rw [List.append_assoc] at hrun
    exact (run_succ_of_drainAdvance hnext rfl hs n).trans hrun
termination_by s.buf.length

/-! ### The statements -/

/-- Settles O54: the fetch hands on nothing, a request, or a step of a DRAIN, and neither of the two faults. -/
theorem nothingFaults : Obligations.NothingFaults :=
  fun _ _ => ⟨step_ne_fault, exec_ne_fault⟩

/-- Settles O48: the fetch hands on what the oldest packet decodes to. -/
theorem stepRunsDecodedRequest : Obligations.StepRunsDecodedRequest :=
  fun _ _ _ _ hd hp hi => step_of_fetch_run ((fetch_of_not_draining hd).trans (nextRequest_of_decode hp hi))

/-- Settles O59, by what the fetch hands on while a DRAIN is in progress; one step of it does to BUF what DRAIN_STEP
does. -/
theorem requestsFallBetweenDrainSteps : Obligations.RequestsFallBetweenDrainSteps := by
  refine fun s out hd => ⟨fun packet ports choices i hs hp hi hn => ?_, fun hother => ?_⟩
  · refine step_of_fetch_run ((fetch_of_choice hd hs).trans (nextInterleaved_of_run ?_ hn))
    exact nextRequest_of_decode hp hi
  · obtain ⟨r, m, hr, ha⟩ := drainAdvance_cases out { s with sched := s.sched.tail }
    obtain ⟨r', m', hr', he⟩ := execDrainStep_cases { s with draining := none } rfl
    obtain ⟨rfl, rfl⟩ : r = r' ∧ m = m' := by simpa using hr.symm.trans hr'
    refine ⟨_, r, he, rfl, ?_⟩
    rw [step_of_fetch_advance (fetch_goes_on hd hother), ha]
    cases r <;> rfl

/-- Settles O58: the DRAIN request takes the first step, and the steps after it end as the atomic DRAIN does. -/
theorem uninterruptedDrainIsAtomic : Obligations.UninterruptedDrainIsAtomic := by
  intro s u rest hd hna hs hp hu
  have hfirst : step s = drainAdvance [] { s with port := rest } :=
    (stepRunsDecodedRequest s _ rest .drain hd hp rfl).trans (execDrain_nonatomic { s with port := rest } hd hna)
  obtain ⟨es, m, t, n, hall, hnext, hrun⟩ := run_after_drainAdvance [] { s with port := rest } hs
  obtain ⟨es', m', hall', hatomic⟩ :=
    execDrain_atomic { s with params := { s.params with drainAtomic := true } } hd rfl
  obtain ⟨rfl, rfl⟩ : es = es' ∧ m = m' := by simpa using hall.symm.trans hall'
  obtain rfl := Host.Outcome.next.inj (hatomic.symm.trans hu)
  refine ⟨n + 1, (run_succ_of_step (hfirst.trans hnext) n).trans (hrun.trans ?_)⟩
  rw [← hd]
  rfl

end Sys2Proof.Machine
end

section
/-! PROOFS. The statements about packets (30_encoding.md): which request a packet stands for, and that the packet of a
well-formed request stands for it. -/

namespace Sys2Proof.Machine

/-! ### What the first byte of a packet selects -/

section
variable (p : Params) (f : Bytes)

/-- A first byte under 32 is an OPSEL (rule R68). -/
theorem decode_opsel {op : Byte} (h : op.toNat < 32) : decode p (op :: f) = decodeOperation op.toNat f :=
  if_pos h

theorem decode_envelopeView : decode p (envelopeView :: f) = decodeEnvelopeRow f := rfl

theorem decode_shapeView : decode p (shapeView :: f) = decodeShapeRow p f := rfl

/-- A bare frame too short for a command header is read as its ENV_ row (log 7). -/
theorem decode_frame_short (h : f.length < 9) : decode p (magic :: f) = decodeEnvelopeRow (magic :: f) :=
  if_pos (Nat.succ_lt_succ h)

/-- A bare frame that can hold a command header is read as its F_ row (log 7). -/
theorem decode_frame_long (h : 9 ≤ f.length) : decode p (magic :: f) = decodeShapeRow p (magic :: f) :=
  if_neg (Nat.not_lt.mpr (Nat.succ_le_succ h))

/-- OPSEL `10100` and above select nothing (rule R68). -/
theorem decodeOperation_unassigned {op : Nat} (h : 20 ≤ op) : decodeOperation op f = .error .unknownOpsel := by
  obtain ⟨n, rfl⟩ := Nat.exists_eq_add_of_le' h
  rfl

end

/-! ### The operands of an operation -/

theorem toNat_loByte {v : Nat} (h : v ≤ 255) : (loByte v).toNat = v := by
  simp only [loByte, BitVec.toNat_ofNat]
  omega

@[simp] theorem boolOperand_boolOperandByte (f : Bool) : boolOperand (boolOperandByte f) = some f := by
  cases f <;> rfl

theorem decodeStartHeatOperands_bytes {mode holdSeconds : Nat} (e : Bool) (hm : mode ≤ 65535)
    (hh : holdSeconds ≤ 65535) :
    decodeStartHeatOperands (le16Bytes mode ++ [boolOperandByte e] ++ le16Bytes holdSeconds)
      = .ok (.encStartHeat mode e holdSeconds) := by
  simp [decodeStartHeatOperands, le16Bytes, le16_bytes, hm, hh]

theorem decodeDelayedStartOperands_bytes {delaySeconds mode holdSeconds : Nat} (e : Bool) (hd : delaySeconds ≤ 65535)
    (hm : mode ≤ 65535) (hh : holdSeconds ≤ 65535) :
    decodeDelayedStartOperands
        (le16Bytes delaySeconds ++ le16Bytes mode ++ [boolOperandByte e] ++ le16Bytes holdSeconds)
      = .ok (.encDelayedStartBody delaySeconds mode e holdSeconds) := by
  simp [decodeDelayedStartOperands, le16Bytes, le16_bytes, hd, hm, hh]

theorem decodeSetMyTempOperands_byte {t : Nat} (h : t ≤ 255) :
    decodeSetMyTempOperands [loByte t] = .ok (.encSetMyTemp t) := by
  rw [decodeSetMyTempOperands, toNat_loByte h]

/-! ### The wire row a frame is read as -/

@[simp] theorem headerOf_headerBytes (h : Header) (b : Bytes) : headerOf (headerBytes h ++ b) = some h := rfl

/-- A payload with a header is the header's bytes and the body. -/
theorem eq_headerBytes_append {payload : Bytes} {h : Header} (hh : headerOf payload = some h) :
    payload = headerBytes h ++ payload.drop 4 := by
  rw [← (headerOf_eq_some_iff.mp hh).2, List.take_append_drop]

/-- A payload with a header belongs to the row F_UNRECOGNIZED when its kind is MESSAGE and no other row names the
header. -/
theorem unrecognizedRow_iff {kind : Kind} {payload : Bytes} {h : Header} (hh : headerOf payload = some h) :
    unrecognizedRow kind payload = true ↔ kind = .message ∧ h ≠ hdrStatusCompact ∧ h ≠ hdrCompletion ∧
      h ≠ hdrStatusReq ∧ h ≠ hdrStartHeat ∧ h ≠ hdrSetMyTemp := by
  simp [unrecognizedRow, hh, and_assoc]

section
variable (p : Params) (kind : Kind) (q lo hi c : Byte) (h : Header) (b : Bytes)

theorem decodeShapeRow_of_header :
    decodeShapeRow p (wireFrame kind q lo hi c (headerBytes h ++ b)) = .ok (decodeHeaderRow p kind q lo hi c h b) := by
  cases kind <;> rfl

theorem decodeShapeRow_of_no_header {payload : Bytes} (hn : headerOf payload = none) :
    decodeShapeRow p (wireFrame kind q lo hi c payload) = .ok (.fUnrecognized kind q lo hi c payload) := by
  cases kind <;> simp [decodeShapeRow, wireFrame, hn]

/-- The headers of the row F_UNRECOGNIZED are those the rows before it leave. -/
theorem decodeHeaderRow_of_unrecognizedRow (hu : unrecognizedRow kind (headerBytes h ++ b) = true) :
    decodeHeaderRow p kind q lo hi c h b = .fUnrecognized kind q lo hi c (headerBytes h ++ b) := by
  obtain ⟨rfl, h₁, h₂, h₃, h₄, h₅⟩ := (unrecognizedRow_iff (headerOf_headerBytes h b)).mp hu
  simp only [decodeHeaderRow, if_neg h₁, if_neg h₂, if_neg h₃, if_neg h₄, if_neg h₅]

/-- A frame of the row F_UNRECOGNIZED is read as that row where an F_ row is asked for (rule R62 rows 1 and 6). -/
theorem decodeShapeRow_of_unrecognizedRow {payload : Bytes} (hu : unrecognizedRow kind payload = true) :
    decodeShapeRow p (wireFrame kind q lo hi c payload) = .ok (.fUnrecognized kind q lo hi c payload) := by
  cases hh : headerOf payload with
  | none => exact decodeShapeRow_of_no_header p kind q lo hi c hh
  | some h =>
    have hp := eq_headerBytes_append hh
    rw [hp] at hu ⊢
    rw [decodeShapeRow_of_header, decodeHeaderRow_of_unrecognizedRow p kind q lo hi c h _ hu]

/-- A bare frame that holds a command header is read as the F_ row of its kind and header. -/
theorem decode_frame_of_header :
    decode p (wireFrame kind q lo hi c (headerBytes h ++ b)) = .ok (decodeHeaderRow p kind q lo hi c h b) :=
  (decode_frame_long p _ (Nat.le_add_left ..)).trans (decodeShapeRow_of_header ..)

/-- An ACK frame with a header is the richer status or an ack record (rule R62 rows 3 and 5). -/
theorem decode_ack_of_header : decode p (wireFrame .ack q lo hi c (headerBytes h ++ b)) = .ok
    (if h = p.hdrStatusRich then .fStatusRich q lo hi c b else .fAckRecord q lo hi c h b) :=
  decode_frame_of_header p .ack q lo hi c h b

end

/-! ### A packet that stands for no request -/

theorem nextRequest_of_decode_error {s : State} {packet : Bytes} {ports : List Bytes} {why : DecodeErr}
    (hp : s.port = packet :: ports) (hi : decode s.params packet = .error why) : nextRequest s = .reject why := by
  simp only [nextRequest, hp, hi]

/-- A step refuses the request that the fetch rejects. -/
theorem step_of_fetch_reject {s : State} {why : DecodeErr} (h : fetch s = .reject why) :
    step s = .refused (.badRequest why) := by
  rw [step, h]

/-! ### The statements -/

/-- Settles O45, row by row: an operation's operands are read back as they were written, and a frame is read as the row
of its kind and header, or as the row its view byte asks for. -/
theorem decodeEncodeRoundTrip : Obligations.DecodeEncodeRoundTrip := by
  intro p i hwf
  cases i with
  | cksum | frameCk | decode | clear | append | drainStep | drain | split | parseStatusCompact | parseStatusRich
  | parseAck | parseCompletion | encStatusReq | decStartHeatBody | decDelayedStartBody => rfl
  | encode kind seq payload => cases kind <;> rfl
  | dispatch env =>
    obtain ⟨kind, seq, len, checksum, payload⟩ := env
    obtain ⟨rfl, -⟩ : len = payload.length ∧ len ≤ maxPayload := by simpa [wellFormed, envelopeWf] using hwf
    cases kind <;> rfl
  | encStartHeat mode e holdSeconds =>
    obtain ⟨hm, hh⟩ : mode ≤ 65535 ∧ holdSeconds ≤ 65535 := by simpa [wellFormed, inWordRange] using hwf
    exact decodeStartHeatOperands_bytes e hm hh
  | encDelayedStartBody delaySeconds mode e holdSeconds =>
    obtain ⟨⟨hd, hm⟩, hh⟩ : (delaySeconds ≤ 65535 ∧ mode ≤ 65535) ∧ holdSeconds ≤ 65535 := by
      simpa [wellFormed, inWordRange] using hwf
    exact decodeDelayedStartOperands_bytes e hd hm hh
  | encSetMyTemp t =>
    have ht : t ≤ 255 := by simpa [wellFormed, inByteRange] using hwf
    exact decodeSetMyTempOperands_byte ht
  | envMessage | envAck => rfl
  | fStatusCompact q lo hi c b => exact decode_frame_of_header p .message q lo hi c hdrStatusCompact b
  | fCompletion q lo hi c b => exact decode_frame_of_header p .message q lo hi c hdrCompletion b
  | fStatusReq q lo hi c b => exact decode_frame_of_header p .message q lo hi c hdrStatusReq b
  | fStartHeat q lo hi c b => exact decode_frame_of_header p .message q lo hi c hdrStartHeat b
  | fSetMyTemp q lo hi c b => exact decode_frame_of_header p .message q lo hi c hdrSetMyTemp b
  | fStatusRich q lo hi c b =>
    exact (decode_ack_of_header p q lo hi c p.hdrStatusRich b).trans (congrArg _ (if_pos rfl))
  | fAckRecord q lo hi c h b =>
    have hh : h ≠ p.hdrStatusRich := of_decide_eq_true hwf
    exact (decode_ack_of_header p q lo hi c h b).trans (congrArg _ (if_neg hh))
  | fUnrecognized kind q lo hi c payload => exact decodeShapeRow_of_unrecognizedRow p kind q lo hi c hwf

/-- Settles O46, by the same reading of a frame. -/
theorem bareFramesReadAsTheirRow : Obligations.BareFramesReadAsTheirRow := by
  intro p q lo hi c h b
  refine ⟨decode_frame_of_header p .message q lo hi c hdrStatusCompact b,
    decode_frame_of_header p .message q lo hi c hdrCompletion b,
    decode_frame_of_header p .message q lo hi c hdrStatusReq b,
    decode_frame_of_header p .message q lo hi c hdrStartHeat b,
    decode_frame_of_header p .message q lo hi c hdrSetMyTemp b,
    decode_ack_of_header p q lo hi c h b, fun hwf => ?_, fun hb => ?_, rfl, rfl, fun k => ?_⟩
  · exact (decode_frame_of_header p .message q lo hi c h b).trans
      (congrArg _ (decodeHeaderRow_of_unrecognizedRow p .message q lo hi c h b hwf))
  · have hshort (k : Byte) : ([k, q, lo, hi, c] ++ b).length < 9 := by
      simp only [List.length_append, List.length_cons, List.length_nil]
      omega
    have hn := headerOf_eq_none_iff.mpr hb
    exact ⟨decode_frame_short p _ (hshort 0x22#8), decode_frame_short p _ (hshort 0x12#8),
      decodeShapeRow_of_no_header p .message q lo hi c hn, decodeShapeRow_of_no_header p .ack q lo hi c hn⟩
  · exact (decode_frame_long p ([k, q, lo, hi, c] ++ headerBytes h ++ b) (Nat.le_add_left ..)).symm

/-- Settles O49: with no DRAIN in progress the oldest packet is read, and its OPSEL selects nothing. -/
theorem unassignedOpselRefused : Obligations.UnassignedOpselRefused := by
  intro s op xs rest hlo hhi hd hp
  have hdec : decode s.params (op :: xs) = .error .unknownOpsel :=
    (decode_opsel s.params xs (by omega)).trans (decodeOperation_unassigned xs hlo)
  exact step_of_fetch_reject ((fetch_of_not_draining hd).trans (nextRequest_of_decode_error hp hdec))

/-- Settles O47: each word and each frame is decoded by evaluation. -/
theorem sampleWordsDecode : Obligations.SampleWordsDecode := by
  unfold Obligations.SampleWordsDecode
  decide

end Sys2Proof.Machine
end

section
/-! PROOFS. The statements about what the requests of the wire rows answer (30_encoding.md): DECODE's value, and for an
F_ row, when the frame is valid, what DISPATCH and the parser of the row's shape answer. -/

namespace Sys2Proof.Machine

/-! ### What DECODE, DISPATCH and the rows answer -/

section
variable {s : State} {f : Bytes} {e : Envelope} {err : FrameErr} {i : Instr} {params : Params}

theorem next_response_inj {r r' : Response} :
    (.next { s with response := r } : Result) = .next { s with response := r' } ↔ r = r' := by
  simp

/-- DECODE completes with what it returns, and nothing else. -/
theorem exec_decode_iff {r : Response} :
    exec (.decode f) s = .next { s with response := r } ↔ decodeResponse f = r :=
  next_response_inj

theorem exec_decode_frameError_iff :
    exec (.decode f) s = .next { s with response := .frameError err } ↔ decodeFrame f = .error err := by
  rw [exec_decode_iff, decodeResponse]
  cases decodeFrame f <;> simp

theorem exec_decode_envelope_iff :
    exec (.decode f) s = .next { s with response := .envelope e } ↔ decodeFrame f = .ok e := by
  rw [exec_decode_iff, decodeResponse]
  cases decodeFrame f <;> simp

/-- DISPATCH of a valid Envelope completes (rule R155). -/
theorem exec_dispatch_of_valid (hv : ValidEnvelope e) :
    exec (.dispatch e) s = .next { s with response := .parsed (dispatchPayload s.params e) } := by
  obtain ⟨hlen, hcap, -⟩ := hv
  exact completeIf_of_true _ _ _ (by simp [envelopeWf, ← hlen, hcap])

theorem receiveResponse_of_error (h : decodeFrame f = .error err) : receiveResponse params f = .frameError err := by
  simp only [receiveResponse, h]

theorem receiveResponse_of_ok (h : decodeFrame f = .ok e) :
    receiveResponse params f = .parsed (dispatchPayload params e) := by
  simp only [receiveResponse, h]

theorem commandResponse_of_error {fields : CommandFields} (h : decodeFrame f = .error err) :
    commandResponse params f fields = .frameError err := by
  simp only [commandResponse, h]

theorem commandResponse_of_ok {fields : CommandFields} (h : decodeFrame f = .ok e) :
    commandResponse params f fields = .command (dispatchPayload params e) fields := by
  simp only [commandResponse, h]

/-- A row that answers what DECODE and DISPATCH give receives its frame (log 6). -/
theorem receivesFrame_of_exec (h : exec i s = complete s (receiveResponse s.params f)) : ReceivesFrame i f s := by
  refine ⟨_, h, fun err hd => ?_, fun e hd => ?_⟩
  · exact receiveResponse_of_error (exec_decode_frameError_iff.mp hd)
  · have hok := exec_decode_envelope_iff.mp hd
    rw [receiveResponse_of_ok hok]
    exact exec_dispatch_of_valid ((decodeFrame_ok_iff f e).mp hok).2

/-- A command row that answers what DECODE and DISPATCH give, with the fields, receives its command (log 6). -/
theorem receivesCommand_of_exec {fields : CommandFields}
    (h : exec i s = complete s (commandResponse s.params f fields)) : ReceivesCommand i f fields s := by
  refine ⟨_, h, fun err hd => ?_, fun e hd => ?_⟩
  · exact commandResponse_of_error (exec_decode_frameError_iff.mp hd)
  · have hok := exec_decode_envelope_iff.mp hd
    exact ⟨_, commandResponse_of_ok hok, exec_dispatch_of_valid ((decodeFrame_ok_iff f e).mp hok).2⟩

end

/-! ### The shape the default table selects -/

section
variable {params : Params} {e : Envelope} {h : Header}

/-- Rows 2, 4 and 6 of rule R62. -/
theorem shapeOf_default_message (hd : params.dispatchTable = defaultDispatchTable) (h : Header) :
    shapeOf params .message h =
      if h = hdrStatusCompact then .statusCompact else if h = hdrCompletion then .completion else .unrecognized := by
  rw [shapeOf, hd]
  by_cases h₁ : h = hdrStatusCompact
  · subst h₁
    rfl
  · by_cases h₂ : h = hdrCompletion
    · subst h₂
      rfl
    · simp [defaultDispatchTable, headerMatches, h₁, h₂]

/-- Rows 3 and 5 of rule R62. -/
theorem shapeOf_default_ack (hd : params.dispatchTable = defaultDispatchTable) (h : Header) :
    shapeOf params .ack h = if h = params.hdrStatusRich then .statusRich else .ackRecord := by
  by_cases h₁ : h = params.hdrStatusRich <;> simp [shapeOf, hd, defaultDispatchTable, headerMatches, h₁]

theorem dispatchPayload_of_header (hh : headerOf e.payload = some h) :
    dispatchPayload params e = parseShape params (shapeOf params e.kind h) e.kind e.seq e.payload := by
  simp only [dispatchPayload, hh]

theorem dispatchPayload_of_no_header (hn : headerOf e.payload = none) :
    dispatchPayload params e = .unrecognized e.kind e.seq e.payload := by
  simp only [dispatchPayload, hn]

/-- DISPATCH does not recognise the payloads of the row F_UNRECOGNIZED (rule R62 rows 1 and 6). -/
theorem dispatchPayload_of_unrecognizedRow (hd : params.dispatchTable = defaultDispatchTable)
    (hu : unrecognizedRow e.kind e.payload = true) :
    dispatchPayload params e = .unrecognized e.kind e.seq e.payload := by
  cases hh : headerOf e.payload with
  | none => exact dispatchPayload_of_no_header hh
  | some h =>
    obtain ⟨hk, h₁, h₂, -⟩ := (unrecognizedRow_iff hh).mp hu
    rw [dispatchPayload_of_header hh, hk, shapeOf_default_message hd, if_neg h₁, if_neg h₂]
    rfl

end

/-! ### A parser called directly on a payload that is its own (rule R196) -/

section
variable (seq : Byte) (body : Bytes) (s : State)

theorem hasHeader_headerBytes (h : Header) : hasHeader (headerBytes h ++ body) h = true :=
  decide_eq_true (headerOf_headerBytes h body)

theorem exec_parseStatusCompact_of_header :
    exec (.parseStatusCompact seq (headerBytes hdrStatusCompact ++ body)) s = .next { s with
      response := .parsed (parseStatusCompact seq (headerBytes hdrStatusCompact ++ body)) } :=
  completeIf_of_true _ _ .notThisParsersPayload (hasHeader_headerBytes body hdrStatusCompact)

theorem exec_parseStatusRich_of_header :
    exec (.parseStatusRich seq (headerBytes s.params.hdrStatusRich ++ body)) s = .next { s with
      response := .parsed (parseStatusRich s.params seq (headerBytes s.params.hdrStatusRich ++ body)) } :=
  completeIf_of_true _ _ .notThisParsersPayload (hasHeader_headerBytes body s.params.hdrStatusRich)

theorem exec_parseCompletion_of_header :
    exec (.parseCompletion seq (headerBytes hdrCompletion ++ body)) s = .next { s with
      response := .parsed (parseCompletion seq (headerBytes hdrCompletion ++ body)) } :=
  completeIf_of_true _ _ .notThisParsersPayload (hasHeader_headerBytes body hdrCompletion)

theorem exec_parseAck_of_header {h : Header} (hne : h ≠ s.params.hdrStatusRich) :
    exec (.parseAck seq (headerBytes h ++ body)) s = .next { s with
      response := .parsed (parseAck seq (headerBytes h ++ body)) } :=
  completeIf_of_true _ _ .notThisParsersPayload (decide_eq_true hne)

end

/-! ### A row whose frame is valid -/

section
variable {s : State} {e : Envelope} {lo hi : Byte} {i : Instr}

/-- The frame of a valid Envelope passes DECODE (rule R69). -/
theorem decodeFrame_wireFrame (hv : ValidEnvelope e) (hl : le16 lo hi = e.len) :
    decodeFrame (wireFrame e.kind e.seq lo hi e.checksum e.payload) = .ok e := by
  refine (decodeFrame_ok_iff _ e).mpr ⟨?_, hv⟩
  rw [frameBytes_eq, ← hl, loByte_le16, hiByte_le16]

/-- A row that answers what DECODE and DISPATCH give answers as the parser of the shape its frame's key selects. -/
theorem exec_of_shape {shape : Shape} {h : Header} (hv : ValidEnvelope e) (hl : le16 lo hi = e.len)
    (hh : headerOf e.payload = some h) (hs : shapeOf s.params e.kind h = shape)
    (hi : exec i s
      = complete s (receiveResponse s.params (wireFrame e.kind e.seq lo hi e.checksum e.payload))) :
    exec i s = .next { s with response := .parsed (parseShape s.params shape e.kind e.seq e.payload) } := by
  rw [hi, receiveResponse_of_ok (decodeFrame_wireFrame hv hl), dispatchPayload_of_header hh, hs]
  rfl

end

/-! ### The fields of a start-heating body -/

/-- DEC_START_HEAT_BODY by length and offsets (rule R173). -/
theorem readStartHeatBody_eq (b : Bytes) :
    readStartHeatBody b = if b.length < 5 then none else some
      { mode := (b.getD 0 0).toNat + 256 * (b.getD 1 0).toNat, holdEnable := b.getD 2 0 ≠ 0x00#8,
        holdSeconds := 256 * (b.getD 3 0).toNat + (b.getD 4 0).toNat } := by
  match b with
  | [] | [_] | [_, _] | [_, _, _] | [_, _, _, _] => rfl
  | m0 :: m1 :: e :: h0 :: h1 :: rest =>
    have h : ¬ (m0 :: m1 :: e :: h0 :: h1 :: rest).length < 5 := by simp
    exact (if_neg h).symm

theorem startHeatFields_eq (b : Bytes) :
    startHeatFields b = if b.length < 5 then .truncated else .startHeat
      { mode := (b.getD 0 0).toNat + 256 * (b.getD 1 0).toNat, holdEnable := b.getD 2 0 ≠ 0x00#8,
        holdSeconds := 256 * (b.getD 3 0).toNat + (b.getD 4 0).toNat } := by
  rw [startHeatFields, readStartHeatBody_eq]
  by_cases h : b.length < 5
  · simp only [if_pos h]
  · simp only [if_neg h]

/-! ### The statements -/

/-- Settles O40: both rows present their frame to DECODE. -/
theorem envelopeRowsDecode : Obligations.EnvelopeRowsDecode :=
  fun _ _ _ _ _ _ => ⟨⟨_, rfl, rfl⟩, ⟨_, rfl, rfl⟩⟩

/-- Settles O41: every payload-shape row answers what DECODE and DISPATCH give for its frame. -/
theorem shapeRowsReceive : Obligations.ShapeRowsReceive := by
  intro q lo hi c h k p s
  refine ⟨receivesFrame_of_exec rfl, receivesFrame_of_exec rfl, receivesFrame_of_exec rfl,
    receivesFrame_of_exec rfl, receivesFrame_of_exec ?_⟩
  cases k <;> rfl

/-- Settles O42: the default table sends the key of a row's frames to the parser of the row's shape. -/
theorem shapeRowsSelectTheirParser : Obligations.ShapeRowsSelectTheirParser := by
  rintro ⟨kind, seq, len, checksum, payload⟩ h body lo hi s hv hl hd
  refine ⟨?_, ?_, ?_, ?_, fun hwf => ?_⟩
  · rintro rfl rfl
    have hs := shapeOf_default_message hd hdrStatusCompact
    exact (exec_of_shape hv hl rfl hs rfl).trans (exec_parseStatusCompact_of_header seq body s).symm
  · rintro rfl rfl
    have hs := (shapeOf_default_ack hd s.params.hdrStatusRich).trans (if_pos rfl)
    exact (exec_of_shape hv hl rfl hs rfl).trans (exec_parseStatusRich_of_header seq body s).symm
  · rintro rfl rfl
    have hs := shapeOf_default_message hd hdrCompletion
    exact (exec_of_shape hv hl rfl hs rfl).trans (exec_parseCompletion_of_header seq body s).symm
  · rintro rfl hne rfl
    have hs := (shapeOf_default_ack hd h).trans (if_neg hne)
    exact (exec_of_shape hv hl rfl hs rfl).trans (exec_parseAck_of_header seq body s hne).symm
  · have hr := receiveResponse_of_ok (params := s.params) (decodeFrame_wireFrame hv hl)
    rw [dispatchPayload_of_unrecognizedRow hd hwf] at hr
    exact congrArg (complete s) hr

/-- Settles O43: every command row answers what DECODE and DISPATCH give for its frame, with the fields of the body. -/
theorem commandRowsReceive : Obligations.CommandRowsReceive := by
  intro q lo hi c b s
  refine ⟨receivesCommand_of_exec rfl, receivesCommand_of_exec ?_, receivesCommand_of_exec ?_⟩
  · rw [← startHeatFields_eq]
    rfl
  · cases b <;> rfl

end Sys2Proof.Machine
end

section
/-! PROOFS. The statements about the checksum (40_checksum.md): the fold on natural numbers, its closed form as a negated
byte sum, FRAME_CK over the frame with the placeholder in byte 5, and when a frame's checksum byte is good. -/

namespace Sys2Proof.Machine

/-! ### CKSUM as a value -/

section
variable (a b : Bytes)

/-- Subtraction of bytes is subtraction modulo 256 of the numbers they are read as (rule R85), so the two folds run in
step. -/
theorem cksum_eq_natFold : cksum a = BitVec.ofNat 8 (a.foldl (fun acc x => (acc + 256 - x.toNat) % 256) 0) := by
  have hsub (acc x : Byte) : (acc.toNat + 256 - x.toNat) % 256 = (acc - x).toNat := by bv_omega
  have hfold : a.foldl (fun acc x => (acc + 256 - x.toNat) % 256) ckSeed.toNat = (cksum a).toNat :=
    List.foldl_hom BitVec.toNat hsub
  calc cksum a = BitVec.ofNat 8 (cksum a).toNat := by simp
    _ = _ := congrArg (BitVec.ofNat 8) hfold.symm

/-- The closed form of rule R81. -/
theorem cksum_eq_ofNat : cksum a = BitVec.ofNat 8 ((256 - byteSum a % 256) % 256) := by
  rw [cksum_eq_neg]
  bv_omega

/-- The checksum tells two strings apart exactly when it can tell their byte sums apart. -/
theorem cksum_eq_cksum_iff : cksum a = cksum b ↔ byteSum a % 256 = byteSum b % 256 := by
  rw [cksum_eq_neg, cksum_eq_neg, neg_inj, ← BitVec.toNat_inj, BitVec.toNat_ofNat, BitVec.toNat_ofNat]

theorem cksum_append : cksum (a ++ b) = cksum a + cksum b := by
  simp only [cksum_eq_neg, byteSum_append, BitVec.ofNat_add, neg_add]

end

theorem byteSum_eq_of_perm {a b : Bytes} (h : a.Perm b) : byteSum a = byteSum b :=
  (h.map BitVec.toNat).sum_eq

/-- Changing one byte changes the byte sum by less than 256. -/
theorem cksum_ne_of_byte_ne (a b : Bytes) {x y : Byte} (h : x ≠ y) : cksum (a ++ x :: b) ≠ cksum (a ++ y :: b) := by
  rw [Ne, cksum_eq_cksum_iff, byteSum_append, byteSum_append, byteSum_cons, byteSum_cons]
  bv_omega

/-! ### FRAME_CK as a value -/

section
variable {f : Bytes}

theorem frameCk_eq_cksum (hf : 6 ≤ f.length) : frameCk f = cksum (f.take 5 ++ [0x01#8] ++ f.drop 6) := by
  rw [frameCk, List.set_eq_take_append_cons_drop, if_pos (Nat.lt_of_succ_le hf), List.append_assoc, List.singleton_append, ckPlaceholder]

/-- The byte FRAME_CK computes is the one form (1) of rule R83 names. -/
theorem frameCk_eq_ofNat (hf : 6 ≤ f.length) :
    frameCk f = BitVec.ofNat 8 ((256 - (byteSum (f.take 5) + byteSum (f.drop 6) + 1) % 256) % 256) := by
  have hsum : byteSum (f.take 5 ++ [0x01#8] ++ f.drop 6) = byteSum (f.take 5) + byteSum (f.drop 6) + 1 := by
    rw [byteSum_append, byteSum_append, Nat.add_right_comm]
    rfl
  rw [frameCk_eq_cksum hf, cksum_eq_ofNat, hsum]

/-- Form (2) of rule R83. -/
theorem frameCk_eq_getD_iff (hf : 6 ≤ f.length) : frameCk f = f.getD 5 0 ↔ byteSum f % 256 = 255 := by
  match f, hf with
  | a :: b :: c :: d :: e :: x :: rest, _ => exact frameCk_eq_iff a b c d e x rest

end

/-! ### What the two operations answer -/

section
variable (s : State)

theorem next_byte_inj {x y : Byte} :
    (Host.Outcome.next { s with response := .byte x } : Result) = .next { s with response := .byte y } ↔ x = y := by
  simp

theorem exec_cksum (a : Bytes) : exec (.cksum a) s = .next { s with response := .byte (cksum a) } := rfl

theorem exec_cksum_eq_iff (a b : Bytes) : exec (.cksum a) s = exec (.cksum b) s ↔ cksum a = cksum b :=
  next_byte_inj s

theorem exec_frameCk {f : Bytes} (hf : 6 ≤ f.length) :
    exec (.frameCk f) s = .next { s with response := .byte (frameCk f) } :=
  completeIf_of_true _ _ .frameTooShort (decide_eq_true hf)

theorem exec_frameCk_eq_next_iff {f : Bytes} (hf : 6 ≤ f.length) (x : Byte) :
    exec (.frameCk f) s = .next { s with response := .byte x } ↔ frameCk f = x := by
  rw [exec_frameCk s hf, next_byte_inj]

end

/-! ### The statements -/

/-- Settles O1: the fold over bytes and the fold over natural numbers run in step. -/
theorem cksumFoldsFromZero : Obligations.CksumFoldsFromZero := by
  intro b s
  rw [exec_cksum, cksum_eq_natFold]

/-- Settles O2: CKSUM is the negated byte sum, and everything else is said of byte sums. -/
theorem cksumIsNegatedSum : Obligations.CksumIsNegatedSum := by
  intro s a b
  refine ⟨?closed, fun hp => ?perm, fun hsum => ?sameSum, fun x y hx hy => ?append, fun x y hne => ?change⟩
  case closed => rw [exec_cksum, cksum_eq_ofNat]
  case perm => rw [exec_cksum_eq_iff, cksum_eq_cksum_iff, byteSum_eq_of_perm hp]
  case sameSum => exact (exec_cksum_eq_iff s a b).mpr ((cksum_eq_cksum_iff a b).mpr hsum)
  case append =>
    obtain rfl : cksum a = x := (next_byte_inj s).mp hx
    obtain rfl : cksum b = y := (next_byte_inj s).mp hy
    rw [exec_cksum, cksum_append, next_byte_inj]
    bv_omega
  case change => exact (exec_cksum_eq_iff s _ _).not.mpr (cksum_ne_of_byte_ne a b hne)

/-- Settles O3: replacing byte 5 is writing the placeholder between the bytes before and after it. -/
theorem frameCkUsesPlaceholder : Obligations.FrameCkUsesPlaceholder := by
  intro f s
  refine ⟨fun hf => ?_, fun hf => ?_⟩
  · rw [exec_frameCk s hf, frameCk_eq_cksum hf, cksum_eq_natFold]
  · exact completeIf_of_false _ _ .frameTooShort (decide_eq_false hf.not_ge)

/-- Settles O4: FRAME_CK is the byte form (1) names, and it stands in byte 5 exactly when form (2) holds. -/
theorem goodChecksumForms : Obligations.GoodChecksumForms := by
  intro f s hf
  rw [exec_frameCk_eq_next_iff s hf]
  exact ⟨by rw [frameCk_eq_ofNat hf, eq_comm], frameCk_eq_getD_iff hf⟩

end Sys2Proof.Machine
end

section
/-! PROOFS. The statements about the envelope codec (41_envelope.md): the frame ENCODE builds, the checks DECODE makes,
and that each undoes the other. -/

namespace Sys2Proof.Machine

/-! ### What ENCODE answers -/

section
variable {k : Kind} {q : Byte} {p : Bytes} {s : State}

theorem exec_encode (hp : p.length ≤ 256) :
    exec (.encode k q p) s = .next { s with response := .bytes (encodeFrame k q p) } :=
  completeIf_of_true _ _ .payloadTooLong (decide_eq_true hp)

/-- ENCODE completes on its domain only, and then with the frame. -/
theorem exec_encode_iff {f : Bytes} :
    exec (.encode k q p) s = .next { s with response := .bytes f } ↔ p.length ≤ 256 ∧ encodeFrame k q p = f := by
  by_cases hp : p.length ≤ 256
  · simp [exec_encode hp, hp]
  · have hr : exec (.encode k q p) s = .refused .payloadTooLong :=
      completeIf_of_false _ _ .payloadTooLong (decide_eq_false hp)
    simp [hr, hp]

/-- Byte 5 of the frame is the checksum ENCODE computes. -/
theorem encodeFrame_getElem?_five : (encodeFrame k q p)[5]? = some (encodedChecksum k q p) := by
  rw [encodeFrame_eq]
  rfl

/-- That checksum in numbers: the negated sum of the other bytes and the placeholder (rule R90). -/
theorem encodedChecksum_eq_ofNat (hp : p.length ≤ 256) :
    encodedChecksum k q p = BitVec.ofNat 8 ((256 - (0xA5 + (kindCode k).toNat + q.toNat +
      p.length % 256 + p.length / 256 + 1 + byteSum p) % 256) % 256) := by
  have hlo : (loByte p.length).toNat = p.length % 256 := by simp [loByte]
  have hhi : (hiByte p.length).toNat = p.length / 256 := by
    simp only [hiByte, BitVec.toNat_ofNat]
    omega
  have hsum : byteSum (wireFrame k q (loByte p.length) (hiByte p.length) ckPlaceholder p)
      = 0xA5 + (kindCode k).toNat + q.toNat + p.length % 256 + p.length / 256 + 1 + byteSum p := by
    simp only [wireFrame, byteSum_cons, hlo, hhi, magic, ckPlaceholder, BitVec.toNat_ofNat]
    omega
  rw [encodedChecksum, cksum_eq_ofNat, hsum]

end

/-! ### What DECODE answers -/

theorem kindOfCode_eq_none_iff {b : Byte} : kindOfCode b = none ↔ b ≠ kindCode .message ∧ b ≠ kindCode .ack := by
  unfold kindOfCode
  split_ifs with hmsg hack
  · simp [hmsg]
  · simp [hack]
  · simp [hmsg, hack]

/-- The checks of rule R92 on a frame with its envelope bytes written out, as one ordered chain. -/
theorem decodeResponse_cons (m k q lo hi c : Byte) (p : Bytes) :
    decodeResponse (m :: k :: q :: lo :: hi :: c :: p) =
      if m ≠ magic then .frameError .badMagic
      else if k ≠ kindCode .message ∧ k ≠ kindCode .ack then .frameError .badKind
      else if le16 lo hi > maxPayload then .frameError .lengthOverCap
      else if (m :: k :: q :: lo :: hi :: c :: p).length ≠ envLen + le16 lo hi then .frameError .lengthMismatch
      else if frameCk (m :: k :: q :: lo :: hi :: c :: p) ≠ c then .frameError .badChecksum
      else .envelope { kind := if k = kindCode .message then .message else .ack, seq := q, len := le16 lo hi,
                       checksum := c, payload := p } := by
  have hlen : (m :: k :: q :: lo :: hi :: c :: p).length = envLen + p.length :=
    Nat.add_comm p.length envLen
  rw [hlen]
  cases hk : kindOfCode k with
  | none =>
    rw [decodeResponse, decodeFrame, hk, if_pos (kindOfCode_eq_none_iff.mp hk)]
    split_ifs <;> rfl
  | some kind =>
    have hnone : ¬ (k ≠ kindCode .message ∧ k ≠ kindCode .ack) := by simp [← kindOfCode_eq_none_iff, hk]
    have hkind : (if k = kindCode .message then .message else .ack) = kind := by
      rw [kindOfCode_eq_some hk]
      cases kind <;> rfl
    rw [decodeResponse, decodeFrame, hk, if_neg hnone, hkind]
    split_ifs <;> rfl

/-! ### ENCODE and DECODE undo each other -/

/-- Round trip, encode then decode (rule R97). -/
theorem decodeFrame_encodeFrame {k : Kind} {q : Byte} {p : Bytes} (hp : p.length ≤ 256) :
    decodeFrame (encodeFrame k q p) = .ok (encodedEnvelope k q p) :=
  (decodeFrame_ok_iff _ _).mpr (encodeFrame_valid k q p hp)

/-- Round trip, decode then encode (rule R98): the payload found is one ENCODE takes, and ENCODE gives the frame back. -/
theorem encodeFrame_of_decodeFrame {f : Bytes} {e : Envelope} (h : decodeFrame f = .ok e) :
    e.payload.length ≤ 256 ∧ encodeFrame e.kind e.seq e.payload = f := by
  have hv := (decodeFrame_ok_iff f e).mp h
  have ⟨_, hlen, hcap, _⟩ := hv
  exact ⟨hlen ▸ hcap, encodeFrame_of_valid hv⟩

theorem exec_encode_of_exec_decode {f : Bytes} {e : Envelope} {s : State}
    (h : exec (.decode f) s = .next { s with response := .envelope e }) :
    exec (.encode e.kind e.seq e.payload) s = .next { s with response := .bytes f } :=
  exec_encode_iff.mpr (encodeFrame_of_decodeFrame (exec_decode_envelope_iff.mp h))

/-- DECODE tells the operands of a frame that ENCODE built, so they are determined by the frame. -/
theorem encodeFrame_inj {k₁ k₂ : Kind} {q₁ q₂ : Byte} {p₁ p₂ : Bytes} (h₁ : p₁.length ≤ 256) (h₂ : p₂.length ≤ 256)
    (h : encodeFrame k₁ q₁ p₁ = encodeFrame k₂ q₂ p₂) : k₁ = k₂ ∧ q₁ = q₂ ∧ p₁ = p₂ := by
  have he : encodedEnvelope k₁ q₁ p₁ = encodedEnvelope k₂ q₂ p₂ :=
    Except.ok.inj (by rw [← decodeFrame_encodeFrame h₁, h, decodeFrame_encodeFrame h₂])
  exact ⟨congrArg Envelope.kind he, congrArg Envelope.seq he, congrArg Envelope.payload he⟩

/-! ### The start-heating command -/

/-- The body that ENC_START_HEAT writes is read back by DEC_START_HEAT_BODY (rule R174). -/
theorem readStartHeatBody_startHeatBodyBytes {m h : Nat} (e : Bool) (hm : m ≤ 65535) (hh : h ≤ 65535) :
    readStartHeatBody (startHeatBodyBytes m e h) = some ⟨m, e, h⟩ := by
  have hf : flagOfByte (byteOfFlag e) = e := by cases e <;> rfl
  simp [readStartHeatBody, startHeatBodyBytes, le16Bytes, be16Bytes, le16_bytes m hm, be16_bytes h hh, hf]

theorem startHeatFields_startHeatBodyBytes {m h : Nat} (e : Bool) (hm : m ≤ 65535) (hh : h ≤ 65535) :
    startHeatFields (startHeatBodyBytes m e h) = .startHeat ⟨m, e, h⟩ := by
  rw [startHeatFields, readStartHeatBody_startHeatBodyBytes e hm hh]

/-- The payload that ENC_START_HEAT returns (rule R171). -/
def startHeatPayload (m : Nat) (e : Bool) (h : Nat) : Bytes :=
  headerBytes hdrStartHeat ++ startHeatBodyBytes m e h

theorem startHeatPayload_length (m : Nat) (e : Bool) (h : Nat) : (startHeatPayload m e h).length = 9 := rfl

theorem startHeatPayload_length_le (m : Nat) (e : Bool) (h : Nat) : (startHeatPayload m e h).length ≤ 256 := by
  rw [startHeatPayload_length]
  decide

section
variable {m h : Nat} {e : Bool} {q : Byte} {s : State}

theorem exec_encStartHeat (hm : m ≤ 65535) (hh : h ≤ 65535) :
    exec (.encStartHeat m e h) s = .next { s with response := .bytes (startHeatPayload m e h) } :=
  completeIf_of_true _ _ .operandOutOfRange (by simp [inWordRange, hm, hh])

/-- Its length bytes are `09 00`. -/
theorem encodeFrame_startHeatPayload :
    encodeFrame .message q (startHeatPayload m e h)
      = wireFrame .message q 0x09#8 0x00#8 (encodedChecksum .message q (startHeatPayload m e h))
          (startHeatPayload m e h) := by
  rw [encodeFrame_eq, startHeatPayload_length]
  rfl

/-- DISPATCH does not recognise a start-heating command: the default table has no row for its header (rule R62 row 6). -/
theorem dispatchPayload_startHeatPayload {params : Params} {c : Byte} {n : Nat}
    (hd : params.dispatchTable = defaultDispatchTable) :
    dispatchPayload params ⟨.message, q, n, c, startHeatPayload m e h⟩
      = .unrecognized .message q (startHeatPayload m e h) := by
  rw [dispatchPayload_of_header rfl, shapeOf_default_message hd]
  rfl

/-- The request of a valid F_START_HEAT frame completes with what DISPATCH gives and the body's fields (log 6). -/
theorem exec_fStartHeat_of_ok {lo hi c : Byte} {body : Bytes} {env : Envelope}
    (hok : decodeFrame (wireFrame .message q lo hi c (headerBytes hdrStartHeat ++ body)) = .ok env) :
    exec (.fStartHeat q lo hi c body) s
      = .next { s with response := .command (dispatchPayload s.params env) (startHeatFields body) } :=
  congrArg (complete s) (commandResponse_of_ok hok)

end

/-! ### The statements -/

/-- Settles O5: the frame is written out byte by byte, its checksum in numbers; the domain test is ENCODE's own. -/
theorem encodeBuildsFrame : Obligations.EncodeBuildsFrame := by
  intro kind seq payload s
  refine ⟨fun hp => ?_, fun hp => ?_⟩
  · rw [exec_encode hp, encodeFrame_eq, encodedChecksum_eq_ofNat hp]
    cases kind <;> rfl
  · exact completeIf_of_false _ _ .payloadTooLong (decide_eq_false hp.not_ge)

/-- Settles O6: a string under six bytes is too short; the checks on a longer one are those on its envelope bytes. -/
theorem decodeChecksInOrder : Obligations.DecodeChecksInOrder := by
  intro f s
  refine exec_decode_iff.mpr ?_
  match f with
  | [] | [_] | [_, _] | [_, _, _] | [_, _, _, _] | [_, _, _, _, _] => rfl
  | m :: k :: q :: lo :: hi :: c :: p =>
    have hlen : 6 ≤ (m :: k :: q :: lo :: hi :: c :: p).length := Nat.le_add_left ..
    rw [decodeResponse_cons, frameCk_eq_ofNat hlen, if_neg hlen.not_gt]
    rfl

/-- Settles O7: the frame is the valid one of the operands, so DECODE gives their Envelope. -/
theorem decodeOfEncode : Obligations.DecodeOfEncode :=
  fun kind seq payload _ hp => ⟨encodeFrame kind seq payload, encodedChecksum kind seq payload, exec_encode hp,
    encodeFrame_getElem?_five, exec_decode_envelope_iff.mpr (decodeFrame_encodeFrame hp)⟩

/-- Settles O8: the two round trips, in terms of what the operations answer. -/
theorem encodeOfDecode : Obligations.EncodeOfDecode := by
  refine ⟨fun f e s => exec_encode_of_exec_decode, fun k₁ k₂ q₁ q₂ p₁ p₂ f s he₁ he₂ => ?_, fun f s => ⟨?_, ?_⟩⟩
  · obtain ⟨h₁, hf₁⟩ := exec_encode_iff.mp he₁
    obtain ⟨h₂, hf₂⟩ := exec_encode_iff.mp he₂
    exact encodeFrame_inj h₁ h₂ (hf₁.trans hf₂.symm)
  · rintro ⟨e, hd⟩
    exact ⟨e.kind, e.seq, e.payload, exec_encode_of_exec_decode hd⟩
  · rintro ⟨k, q, p, he⟩
    obtain ⟨hp, rfl⟩ := exec_encode_iff.mp he
    exact ⟨encodedEnvelope k q p, exec_decode_envelope_iff.mpr (decodeFrame_encodeFrame hp)⟩

/-- Settles O44: the frame ENCODE builds is the F_START_HEAT frame of the body, it passes DECODE, and the body's fields
are the operands. -/
theorem startHeatFrameRoundTrip : Obligations.StartHeatFrameRoundTrip := by
  intro m h e seq s hm hh hd
  have hp := startHeatPayload_length_le m e h
  have hok := decodeFrame_encodeFrame (k := .message) (q := seq) hp
  refine ⟨startHeatPayload m e h, encodeFrame .message seq (startHeatPayload m e h), _, exec_encStartHeat hm hh,
    exec_encode hp, encodeFrame_getElem?_five, ?_, ?_⟩
  · rw [encodeFrame_startHeatPayload]
    exact decode_frame_of_header ..
  · rw [encodeFrame_startHeatPayload] at hok
    have hexec := exec_fStartHeat_of_ok (s := s) hok
    rw [encodedEnvelope, dispatchPayload_startHeatPayload hd, startHeatFields_startHeatBodyBytes e hm hh] at hexec
    exact hexec

end Sys2Proof.Machine
end

section
/-! PROOFS. The statements about the reassembler (42_reassembler.md): what the four buffer operations answer, which
frames a DRAIN finds in the buffer, and the chunks SPLIT cuts. -/

namespace Sys2Proof.Machine

/-! ### What one DRAIN_STEP finds in the buffer -/

section
variable {g f t rest : Bytes} {e : Envelope} {m m' : Memory} {es : List Envelope}

/-- Without a magic byte everything is discarded (rule R116). -/
theorem drainStep_of_no_magic (hg : magic ∉ g) : drainStep g = .ok (.stop, []) := by
  simp [drainStep_eq, scan_of_not_mem hg]

/-- What lies before the first magic byte makes no difference to a step (rule R116). -/
theorem drainStep_append_magic (hg : magic ∉ g) (t : Bytes) :
    drainStep (g ++ magic :: t) = drainStep (magic :: t) := by
  rw [drainStep_eq, drainStep_eq, scan_append_magic t hg, scan_magic_cons]

/-- Garbage, then a head whose frame is not complete: the step discards the garbage and waits. -/
theorem drainStep_of_garbage_pending (hg : magic ∉ g) (hp : HeadPending (magic :: t)) :
    drainStep (g ++ magic :: t) = .ok (.stop, magic :: t) := by
  rw [drainStep_append_magic hg, drainStep_of_pending hp]

/-- Garbage, then a complete frame that fails DECODE: the step discards the garbage and the magic (rule R117). -/
theorem drainStep_of_bad_frame {k q lo hi c : Byte} {err : FrameErr} (hg : magic ∉ g)
    (hn : le16 lo hi ≤ rest.length)
    (hbad : decodeFrame ([magic, k, q, lo, hi, c] ++ rest.take (le16 lo hi)) = .error err) :
    drainStep (g ++ [magic, k, q, lo, hi, c] ++ rest) = .ok (.cont, [k, q, lo, hi, c] ++ rest) := by
  have hwindow : ([magic, k, q, lo, hi, c] ++ rest).take (6 + le16 lo hi)
      = [magic, k, q, lo, hi, c] ++ rest.take (le16 lo hi) :=
    List.take_length_add_append (l₁ := [magic, k, q, lo, hi, c]) _
  have hcomplete : 6 + le16 lo hi ≤ ([magic, k, q, lo, hi, c] ++ rest).length := by
    rw [List.length_append]
    exact Nat.add_le_add_left hn 6
  rw [← hwindow] at hbad
  rw [List.append_assoc]
  exact drainStep_of_bad_window hg hcomplete fun e he => nomatch hbad.symm.trans he

/-- The bytes of the frame that a step emits, none when it emits nothing. -/
def StepResult.emitted : StepResult → Bytes
  | .emit e => frameBytes e
  | .stop | .cont => []

/-- A step takes bytes from the front of BUF only, and the last of them are those of the frame it emits (rules R7,
R124). -/
theorem drainStep_takes_front {r : StepResult} (h : drainStep m = .ok (r, m')) :
    ∃ g, m = g ++ (StepResult.emitted r ++ m') := by
  obtain ⟨g, hg, -⟩ := scan_split m
  obtain ⟨r', m'', h', hc⟩ := drainStep_cases m
  obtain ⟨rfl, rfl⟩ : r = r' ∧ m' = m'' := by simpa using h.symm.trans h'
  obtain ⟨rfl, rfl, -⟩ | ⟨rfl, -, -, rfl⟩ | ⟨e, f, rfl, ⟨rfl, -⟩, hs⟩ := hc
  · exact ⟨g, hg⟩
  · refine ⟨g ++ (scan m).take 1, ?_⟩
    rw [StepResult.emitted, List.nil_append, List.append_assoc, List.take_append_drop, ← hg]
  · exact ⟨g, by rw [StepResult.emitted, ← hs, ← hg]⟩

/-! ### What a DRAIN finds in the buffer -/

theorem drainAll_of_pending (hp : HeadPending m) : drainAll m = .ok ([], m) :=
  drainAll_of_stop (drainStep_of_pending hp)

theorem drainAll_of_no_magic (hg : magic ∉ g) : drainAll g = .ok ([], []) :=
  drainAll_of_stop (drainStep_of_no_magic hg)

/-- Garbage without a magic byte, then a valid frame: DRAIN emits the frame and goes on behind it. -/
theorem drainAll_of_frame (hg : magic ∉ g) (hf : ValidFrame f e) (h : drainAll rest = .ok (es, m)) :
    drainAll (g ++ f ++ rest) = .ok (e :: es, m) :=
  drainAll_of_emit (drainStep_of_frame hg hf) h

/-- A valid frame behind garbage, and nothing else. -/
theorem drainAll_of_last_frame (hg : magic ∉ g) (hf : ValidFrame f e) : drainAll (g ++ f) = .ok ([e], []) := by
  rw [← List.append_nil (g ++ f)]
  exact drainAll_of_frame hg hf (drainAll_of_no_magic List.not_mem_nil)

end

/-! ### What the four buffer operations answer -/

section
variable {s t : State} {c : Bytes} {m : Memory} {es : List Envelope} {r : StepResult}

theorem exec_clear : exec .clear s = .next { s with buf := [], response := .noResult } := rfl

/-- APPEND on its domain (rule R111). -/
theorem exec_append (hc : c.length ≤ 512) : exec (.append c) s = .next { s with
    buf := if s.buf.length + c.length > 512 then c else s.buf ++ c, response := .noResult } :=
  if_pos hc

/-- APPEND of a chunk that fits behind what is buffered. -/
theorem exec_append_of_fits (h : s.buf.length + c.length ≤ 512) :
    exec (.append c) s = .next { s with buf := s.buf ++ c, response := .noResult } := by
  rw [exec_append (by omega), if_neg h.not_gt]

/-- APPEND of a chunk that overflows the buffer discards what was buffered (rule R202). -/
theorem exec_append_of_overflow (hc : c.length ≤ 512) (h : 512 < s.buf.length + c.length) :
    exec (.append c) s = .next { s with buf := c, response := .noResult } := by
  rw [exec_append hc, if_pos h]

/-- DRAIN_STEP answers what one step does to BUF. -/
theorem exec_drainStep (hd : s.draining = none) (h : drainStep s.buf = .ok (r, m)) :
    exec .drainStep s = .next { s with buf := m, response := .step r } := by
  simp only [exec, execDrainStep, hd, h, State.respondWith]

/-- DRAIN as one action answers what the loop does to BUF. -/
theorem exec_drain (hd : s.draining = none) (ha : s.params.drainAtomic = true) (h : drainAll s.buf = .ok (es, m)) :
    exec .drain s = .next { s with buf := m, response := .envelopes es } := by
  simp only [exec, execDrain, hd, ha, h, State.respondWith, if_true]

/-- A pending head holds DRAIN_STEP (rule R119). -/
theorem exec_drainStep_of_pending (hd : s.draining = none) (hp : HeadPending s.buf) :
    exec .drainStep s = .next { s with response := .step .stop } :=
  exec_drainStep hd (drainStep_of_pending hp)

/-- A pending head holds DRAIN as one action (rule R119). -/
theorem exec_drain_of_pending (hd : s.draining = none) (ha : s.params.drainAtomic = true) (hp : HeadPending s.buf) :
    exec .drain s = .next { s with response := .envelopes [] } :=
  exec_drain hd ha (drainAll_of_pending hp)

/-- After a step that goes on without an Envelope, DRAIN answers as it does on the buffer the step leaves. -/
theorem exec_drain_of_cont (hd : s.draining = none) (ha : s.params.drainAtomic = true)
    (h : drainStep s.buf = .ok (.cont, m)) : exec .drain s = exec .drain { s with buf := m } := by
  obtain ⟨es, m', hall, -⟩ := drainAll_ok m
  rw [exec_drain hd ha ((drainAll_of_cont h).trans hall), exec_drain (s := { s with buf := m }) hd ha hall]

/-- All that makes DRAIN_STEP complete. -/
theorem of_exec_drainStep (h : exec .drainStep s = .next t) :
    s.draining = none ∧ ∃ r m, drainStep s.buf = .ok (r, m) ∧ t = { s with buf := m, response := .step r } := by
  cases requestEffect_of_exec h with
  | answers hi => cases hi
  | drainsOnce hd hs => exact ⟨hd, _, _, hs, rfl⟩

/-- All that makes DRAIN as one action complete. -/
theorem of_exec_drain (ha : s.params.drainAtomic = true) (h : exec .drain s = .next t) :
    s.draining = none ∧ ∃ es m, drainAll s.buf = .ok (es, m) ∧ t = { s with buf := m, response := .envelopes es } := by
  cases requestEffect_of_exec h with
  | answers hi => cases hi
  | drainsAll hd _ hs => exact ⟨hd, _, _, hs, rfl⟩
  | beginsDrain _ hna => simp [ha] at hna

end

/-! ### DRAIN as a run of DRAIN_STEPs -/

/-- Induction along the steps of a DRAIN: the buffer gets shorter with every step that does not stop (rule R115). -/
theorem drainAll_induction {P : ∀ m es m', drainAll m = .ok (es, m') → Prop}
    (stop : ∀ m m' (h : drainStep m = .ok (.stop, m')), P m [] m' (drainAll_of_stop h))
    (cont : ∀ m m₁ es m' (h : drainStep m = .ok (.cont, m₁)) (ha : drainAll m₁ = .ok (es, m')),
      P m₁ es m' ha → P m es m' ((drainAll_of_cont h).trans ha))
    (emit : ∀ m m₁ e es m' (h : drainStep m = .ok (.emit e, m₁)) (ha : drainAll m₁ = .ok (es, m')),
      P m₁ es m' ha → P m (e :: es) m' (drainAll_of_emit h ha))
    (m : Memory) (es : List Envelope) (m' : Memory) (h : drainAll m = .ok (es, m')) : P m es m' h := by
  obtain ⟨r, m₁, hs, -⟩ := drainStep_cases m
  obtain ⟨-, hcont, hemit⟩ := drainStep_length hs
  cases r with
  | stop =>
    obtain ⟨rfl, rfl⟩ : es = [] ∧ m' = m₁ := by simpa using h.symm.trans (drainAll_of_stop hs)
    exact stop m m' hs
  | cont =>
    have hshort := hcont rfl
    have ha := (drainAll_of_cont hs).symm.trans h
    exact cont m m₁ es m' hs ha (drainAll_induction stop cont emit m₁ es m' ha)
  | emit e =>
    have hshort := hemit e rfl
    obtain ⟨es₁, m₂, ha, -⟩ := drainAll_ok m₁
    obtain ⟨rfl, rfl⟩ : es = e :: es₁ ∧ m' = m₂ := by simpa using h.symm.trans (drainAll_of_emit hs ha)
    exact emit m m₁ e es₁ m' hs ha (drainAll_induction stop cont emit m₁ es₁ m' ha)
termination_by m.length

/-- Every run of steps to the STOP has at most LEN + 1 of them (rule R115). -/
theorem DrainSteps.length_le {s t : State} {n : Nat} {es : List Envelope} (h : DrainSteps s n es t) :
    n ≤ s.buf.length + 1 := by
  induction h with
  | stop => omega
  | cont h hr _ ih =>
    obtain ⟨-, r, m, hs, rfl⟩ := of_exec_drainStep h
    obtain ⟨-, hcont, -⟩ := drainStep_length hs
    exact Nat.succ_le_succ (ih.trans (hcont (Response.step.inj hr)))
  | emit h hr _ ih =>
    obtain ⟨-, r, m, hs, rfl⟩ := of_exec_drainStep h
    obtain ⟨-, -, hemit⟩ := drainStep_length hs
    have hshort := Nat.le_of_add_right_le (k := 5) (hemit _ (Response.step.inj hr))
    exact Nat.succ_le_succ (ih.trans hshort)

/-- DRAIN's loop is the run of steps up to the first STOP (rule R114). -/
theorem exists_drainSteps_of_drainAll {s : State} {m m' : Memory} {es : List Envelope}
    (h : drainAll m = .ok (es, m')) (hd : s.draining = none) (hm : s.buf = m) :
    ∃ n t, DrainSteps s n es t ∧ t.buf = m' := by
  induction m, es, m', h using drainAll_induction generalizing s with
  | stop m m' h => exact ⟨1, _, .stop (exec_drainStep hd (hm ▸ h)) rfl, rfl⟩
  | cont m m₁ es m' h _ ih =>
    obtain ⟨n, t, hrun, ht⟩ := ih (s := { s with buf := m₁, response := .step .cont }) hd rfl
    exact ⟨n + 1, t, .cont (exec_drainStep hd (hm ▸ h)) rfl hrun, ht⟩
  | emit m m₁ e es m' h _ ih =>
    obtain ⟨n, t, hrun, ht⟩ := ih (s := { s with buf := m₁, response := .step (.emit e) }) hd rfl
    exact ⟨n + 1, t, .emit (exec_drainStep hd (hm ▸ h)) rfl hrun, ht⟩

/-! ### The frames a DRAIN emits lie in the buffer in order -/

/-- `m` holds the valid frames of `es` one after another, any bytes before, between and behind them, and then `m'`. -/
def FramesInOrder (m : Memory) (es : List Envelope) (m' : Memory) : Prop :=
  ∃ (gaps : List (Bytes × Envelope)) (last : Bytes), es = gaps.map Prod.snd ∧ (∀ ge ∈ gaps, ValidEnvelope ge.2) ∧
    m = gaps.flatMap (fun ge => ge.1 ++ frameBytes ge.2) ++ last ++ m'

namespace FramesInOrder

variable {m m' : Memory} {es : List Envelope} {e : Envelope}

theorem refl (m : Memory) : FramesInOrder m [] m := ⟨[], [], rfl, by simp, rfl⟩

/-- More bytes in front: they belong to the first gap, or to the bytes behind the last frame. -/
theorem prepend (g : Bytes) (h : FramesInOrder m es m') : FramesInOrder (g ++ m) es m' := by
  obtain ⟨gaps, last, rfl, hv, rfl⟩ := h
  cases gaps with
  | nil => exact ⟨[], g ++ last, rfl, hv, by simp⟩
  | cons ge gaps => exact ⟨(g ++ ge.1, ge.2) :: gaps, last, rfl, by simpa using hv, by simp⟩

/-- One more frame in front. -/
theorem frame (hv : ValidEnvelope e) (h : FramesInOrder m es m') : FramesInOrder (frameBytes e ++ m) (e :: es) m' := by
  obtain ⟨gaps, last, rfl, hvs, rfl⟩ := h
  exact ⟨([], e) :: gaps, last, rfl, List.forall_mem_cons.mpr ⟨hv, hvs⟩, by simp⟩

end FramesInOrder

/-- A DRAIN emits what lies in BUF in order, before what remains (rule R124). -/
theorem framesInOrder_of_drainAll {m m' : Memory} {es : List Envelope} (h : drainAll m = .ok (es, m')) :
    FramesInOrder m es m' := by
  induction m, es, m', h using drainAll_induction with
  | stop m m' h =>
    obtain ⟨g, rfl⟩ := drainStep_takes_front h
    exact (FramesInOrder.refl m').prepend g
  | cont m m₁ es m' h _ ih =>
    obtain ⟨g, rfl⟩ := drainStep_takes_front h
    exact ih.prepend g
  | emit m m₁ e es m' h _ ih =>
    have hv := validEnvelope_of_drainStep_emit h
    obtain ⟨g, rfl⟩ := drainStep_takes_front h
    exact (ih.frame hv).prepend g

/-- Valid frames with nothing but other bytes than the magic between and behind them are all emitted (rule R124). -/
theorem drainAll_of_frames {gaps : List (Bytes × Envelope)} {last : Bytes}
    (hgaps : ∀ ge ∈ gaps, magic ∉ ge.1 ∧ ValidEnvelope ge.2) (hlast : magic ∉ last) :
    drainAll (gaps.flatMap (fun ge => ge.1 ++ frameBytes ge.2) ++ last) = .ok (gaps.map Prod.snd, []) := by
  induction gaps with
  | nil => exact drainAll_of_no_magic hlast
  | cons ge gaps ih =>
    obtain ⟨⟨hg, hv⟩, hrest⟩ := List.forall_mem_cons.mp hgaps
    rw [List.flatMap_cons, List.append_assoc]
    exact drainAll_of_frame hg ⟨rfl, hv⟩ (ih hrest)

/-! ### A frame that is not complete yet -/

section
variable {f a b : Bytes} {e : Envelope}

/-- The length bytes of a valid frame declare its length (rule R51). -/
theorem validFrame_declared (hf : ValidFrame f e) : (f.getD 3 0).toNat + 256 * (f.getD 4 0).toNat = e.len := by
  obtain ⟨rfl, -, hcap, -⟩ := hf
  rw [frameBytes_eq]
  exact le16_bytes e.len (by omega)

/-- The first bytes of a valid frame that is not complete are waited for (rule R122). -/
theorem headPending_of_frame_start (hf : ValidFrame f e) (hab : a ++ b = f) (hb : b ≠ []) : HeadPending a := by
  have hshort : a.length < 6 + e.len := by
    have := List.length_pos_iff.mpr hb
    rw [← validFrame_length hf, ← hab, List.length_append]
    omega
  by_cases ha : a = []
  · exact .inl ha
  · have h0 : f[0]? = some 0xA5#8 := by rw [hf.1]; rfl
    rw [← hab, List.getElem?_append_left (List.length_pos_iff.mpr ha)] at h0
    refine .inr ⟨h0, or_iff_not_imp_left.mpr fun h6 => ?_⟩
    have hext := validFrame_declared hf
    rw [← hab, List.getD_append _ _ _ _ (by omega), List.getD_append _ _ _ _ (by omega)] at hext
    omega

end

/-! ### A frame whose checksum byte was changed -/

section
variable {k : Kind} {q lo hi x : Byte} {p : Bytes}

/-- The last of DECODE's checks (rule R92): everything before the checksum is right. -/
theorem decodeFrame_of_bad_checksum (hl : le16 lo hi = p.length) (hcap : p.length ≤ maxPayload)
    (hx : frameCk (wireFrame k q lo hi x p) ≠ x) : decodeFrame (wireFrame k q lo hi x p) = .error .badChecksum := by
  have hx' : frameCk (magic :: kindCode k :: q :: lo :: hi :: x :: p) ≠ x := hx
  simp only [wireFrame, decodeFrame, kindOfCode_kindCode, hl]
  rw [if_neg (not_not_intro rfl), if_neg hcap.not_gt, if_neg (not_not_intro rfl), if_pos hx']

/-- FRAME_CK does not look at the checksum byte (rule R82). -/
theorem frameCk_wireFrame_eq (x y : Byte) : frameCk (wireFrame k q lo hi x p) = frameCk (wireFrame k q lo hi y p) := rfl

end

theorem frameCk_frameBytes {e : Envelope} (hv : ValidEnvelope e) : frameCk (frameBytes e) = e.checksum := by
  obtain ⟨-, -, hsum⟩ := hv
  rw [frameBytes_eq] at hsum ⊢
  exact (frameCk_eq_iff ..).mpr hsum

section
variable {f : Bytes} {e : Envelope} {x : Byte}

/-- A valid frame with its checksum byte changed, written out. -/
theorem validFrame_set_checksum (hf : ValidFrame f e) (x : Byte) :
    f.set 5 x = wireFrame e.kind e.seq (loByte e.len) (hiByte e.len) x e.payload := by
  rw [hf.1, frameBytes_eq]
  rfl

/-- Such a frame fails DECODE at its checksum (rule R123). -/
theorem decodeFrame_set_checksum (hf : ValidFrame f e) (hx : x ≠ e.checksum) :
    decodeFrame (f.set 5 x) = .error .badChecksum := by
  obtain ⟨hlen, hcap, -⟩ := hf.2
  rw [validFrame_set_checksum hf]
  refine decodeFrame_of_bad_checksum ((le16_bytes _ (by omega)).trans hlen) (hlen ▸ hcap) ?_
  rw [frameCk_wireFrame_eq x e.checksum, ← frameBytes_eq, frameCk_frameBytes hf.2]
  exact hx.symm

/-- The first step of a DRAIN on such a frame discards the magic (rules R117, R123). -/
theorem drainStep_set_checksum (hf : ValidFrame f e) (hx : x ≠ e.checksum) :
    drainStep (f.set 5 x) = .ok (.cont, (f.set 5 x).drop 1) := by
  obtain ⟨hlen, hcap, -⟩ := hf.2
  have hl : le16 (loByte e.len) (hiByte e.len) = e.payload.length := (le16_bytes _ (by omega)).trans hlen
  have hbad := decodeFrame_set_checksum hf hx
  rw [validFrame_set_checksum hf] at hbad ⊢
  refine drainStep_of_bad_frame (g := []) (err := .badChecksum) List.not_mem_nil hl.le ?_
  rw [hl, List.take_length]
  exact hbad

end

/-! ### The chunks of a valid frame -/

section
variable {f b c : Bytes} {e : Envelope} {s : State} {cs : List Bytes}

/-- A valid frame fits into an empty buffer. -/
theorem validFrame_length_le (hf : ValidFrame f e) : f.length ≤ 512 := by
  have hlen := validFrame_length hf
  obtain ⟨-, -, hcap, -⟩ := hf
  omega

/-- APPENDs that fit together fill the buffer in order. -/
theorem appendRun_of_fits (hfits : (s.buf ++ cs.flatten).length ≤ 512) :
    ∃ r, appendRun cs s = some { s with buf := s.buf ++ cs.flatten, response := r } := by
  induction cs generalizing s with
  | nil => exact ⟨s.response, by simp [appendRun]⟩
  | cons c cs ih =>
    rw [List.flatten_cons, ← List.append_assoc] at hfits ⊢
    have hc : s.buf.length + c.length ≤ 512 := by
      simp only [List.length_append] at hfits
      omega
    rw [appendRun, exec_append_of_fits hc]
    exact ih (s := { s with buf := s.buf ++ c, response := .noResult }) hfits

/-- APPEND of a chunk of a valid frame behind the chunks before it. -/
theorem exec_append_of_frame (hf : ValidFrame f e) (hsplit : s.buf ++ c ++ b = f) :
    exec (.append c) s = .next { s with buf := s.buf ++ c, response := .noResult } := by
  have hle := validFrame_length_le hf
  rw [← hsplit, List.length_append, List.length_append] at hle
  exact exec_append_of_fits (Nat.le_of_add_right_le hle)

/-- A DRAIN after each APPEND, with the bytes of the frame before those chunks already buffered: it returns nothing until
the last chunk (rule R122). -/
theorem appendDrainRun_of_frame (hf : ValidFrame f e) (hc : c ≠ []) (hsplit : s.buf ++ (cs.flatten ++ c) = f)
    (hd : s.draining = none) (ha : s.params.drainAtomic = true) :
    appendDrainRun (cs ++ [c]) s = some (List.replicate cs.length (.envelopes []) ++ [.envelopes [e]],
      { s with buf := [], response := .envelopes [e] }) := by
  induction cs generalizing s with
  | nil =>
    have happ := exec_append_of_frame (c := c) (b := []) hf ((List.append_nil _).trans hsplit)
    have hdrain := exec_drain (s := { s with buf := s.buf ++ c, response := .noResult }) hd ha
      ((congrArg drainAll hsplit).trans (drainAll_of_last_frame List.not_mem_nil hf))
    simp only [List.nil_append, appendDrainRun, happ, hdrain]
    rfl
  | cons c₁ cs ih =>
    rw [List.flatten_cons, List.append_assoc, ← List.append_assoc] at hsplit
    have hp := headPending_of_frame_start hf hsplit (by simp [hc])
    have happ := exec_append_of_frame hf hsplit
    have hdrain := exec_drain_of_pending (s := { s with buf := s.buf ++ c₁, response := .noResult }) hd ha hp
    have hrest := ih (s := { s with buf := s.buf ++ c₁, response := .envelopes [] }) hsplit hd ha
    simp only [List.cons_append, appendDrainRun, happ, hdrain, hrest]
    rfl

end

/-! ### The slices SPLIT cuts -/

/-- The `j`-th slice of twenty bytes. -/
def slice (f : Bytes) (j : Nat) : Bytes := (f.drop (20 * j)).take 20

section
variable (f : Bytes)

theorem slice_length (j : Nat) : (slice f j).length = min 20 (f.length - 20 * j) := by
  rw [slice, List.length_take, List.length_drop]

/-- `n` consecutive slices make up the first `20 * n` bytes. -/
theorem flatten_map_slice (n : Nat) : ((List.range n).map (slice f)).flatten = f.take (20 * n) := by
  induction n with
  | zero => rfl
  | succ n ih =>
    rw [List.range_succ, List.map_append, List.flatten_append, ih, Nat.mul_succ, List.take_add, List.map_singleton,
      List.flatten_singleton, slice]

theorem splitFrame_eq : splitFrame f = (List.range ((f.length + 19) / 20)).map (slice f) := rfl

theorem splitFrame_length : (splitFrame f).length = (f.length + 19) / 20 := by
  rw [splitFrame_eq, List.length_map, List.length_range]

theorem splitFrame_flatten : (splitFrame f).flatten = f := by
  rw [splitFrame_eq, flatten_map_slice, List.take_of_length_le (by omega)]

/-- A string that is not empty is cut into slices before the last one, and the last one. -/
theorem splitFrame_eq_concat {k : Nat} (hk : (f.length + 19) / 20 = k + 1) :
    splitFrame f = (List.range k).map (slice f) ++ [slice f k] := by
  rw [splitFrame_eq, hk, List.range_succ, List.map_append, List.map_singleton]

end

/-! ### The statements -/

/-- Settles O9: CLEAR does not look at what BUF holds. -/
theorem clearEmptiesBuffer : Obligations.ClearEmptiesBuffer :=
  fun s => ⟨.noResult, exec_clear, fun hb => exec_clear.trans (by rw [← hb])⟩

/-- Settles O10: the operand's own length is tested before the sum is. -/
theorem appendAddsOrDiscards : Obligations.AppendAddsOrDiscards :=
  fun _ _ => ⟨fun hc => ⟨_, exec_append hc⟩, fun hc => if_neg hc.not_ge⟩

/-- Settles O11: the scan takes the garbage, and the head decides the letter. -/
theorem drainStepByLetters : Obligations.DrainStepByLetters := by
  intro s hd
  refine ⟨fun hb => ?a, fun g t hg hb ht => ?b, fun g rest k q lo hi c hg hb => ⟨fun hn => ?c, fun hn => ?window⟩⟩
  case a => exact exec_drainStep hd (drainStep_of_no_magic hb)
  case b =>
    have hp : HeadPending (magic :: t) := .inr ⟨rfl, .inl (Nat.succ_lt_succ ht)⟩
    exact exec_drainStep hd (hb ▸ drainStep_of_garbage_pending hg hp)
  case c =>
    have hshort : ([magic, k, q, lo, hi, c] ++ rest).length < 6 + (lo.toNat + 256 * hi.toNat) := by
      rw [List.length_append]
      exact Nat.add_lt_add_left hn 6
    have hp : HeadPending ([magic, k, q, lo, hi, c] ++ rest) := .inr ⟨rfl, .inr hshort⟩
    rw [List.append_assoc] at hb
    exact exec_drainStep hd (hb ▸ drainStep_of_garbage_pending hg hp)
  case window =>
    refine ⟨fun err herr => ?d, fun e he => ?e⟩
    case d => exact exec_drainStep hd (hb ▸ drainStep_of_bad_frame hg hn (exec_decode_frameError_iff.mp herr))
    case e =>
      have hf := (decodeFrame_ok_iff _ e).mp (exec_decode_envelope_iff.mp he)
      refine exec_drainStep hd (.trans ?_ (drainStep_of_frame hg hf))
      rw [hb, List.append_assoc, List.append_assoc, List.append_assoc, List.take_append_drop]

/-- Settles O12: the run of steps that the loop of DRAIN is, its bound, and DRAIN's own answer. -/
theorem drainRepeatsDrainStep : Obligations.DrainRepeatsDrainStep := by
  intro s hd ha
  obtain ⟨es, m, hall, -⟩ := drainAll_ok s.buf
  obtain ⟨n, t, hrun, rfl⟩ := exists_drainSteps_of_drainAll hall hd rfl
  exact ⟨n, es, t, hrun, hrun.length_le, exec_drain hd ha hall⟩

/-- Settles O13: what one step removes bounds the run, and a DRAIN leaves the head pending, which holds the next one. -/
theorem drainIsBounded : Obligations.DrainIsBounded := by
  intro s t
  refine ⟨fun h => ?_, fun n es => DrainSteps.length_le, fun ha h => ?_⟩
  · obtain ⟨-, r, m, hs, rfl⟩ := of_exec_drainStep h
    obtain ⟨-, hcont, hemit⟩ := drainStep_length hs
    exact ⟨fun hr => hcont (Response.step.inj hr), fun e hr => hemit e (Response.step.inj hr)⟩
  · obtain ⟨hd, es, m, hall, rfl⟩ := of_exec_drain ha h
    obtain ⟨es', m', hall', hp, hbound, -⟩ := drainAll_ok s.buf
    obtain ⟨rfl, rfl⟩ : es = es' ∧ m = m' := by simpa using hall.symm.trans hall'
    exact ⟨⟨es, rfl, by omega⟩, exec_drain_of_pending hd ha hp⟩

/-- Settles O15: behind clean garbage stands the frame; a false head is a pending head or a window that fails DECODE. -/
theorem resynchronisesPastGarbage : Obligations.ResynchronisesPastGarbage := by
  intro g f e s hf hd ha hg
  refine ⟨fun hb => exec_drain hd ha (hb ▸ drainAll_of_last_frame hg hf), ?_⟩
  rintro g' w rfl hb
  refine ⟨fun hn => ?_, fun hn err herr => ?_⟩
  · have hp : HeadPending (magic :: (g' ++ f)) := .inr ⟨rfl, .inr hn⟩
    exact exec_drain hd ha (hb ▸ drainAll_of_stop (drainStep_of_garbage_pending hg hp))
  · have hbad := exec_decode_frameError_iff.mp herr
    exact exec_drain_of_cont hd ha (hb ▸ drainStep_of_bad_window hg hn fun e' he => nomatch hbad.symm.trans he)

/-- Settles O16: what is buffered before the last chunk is the beginning of the frame, which is a pending head. -/
theorem partialFramesJoin : Obligations.PartialFramesJoin := by
  intro f e cs c s hf hsplit hc hb hd ha
  have hreset (r : Response) : { s with buf := [], response := r } = { s with response := r } := by rw [← hb]
  refine ⟨?_, ?_, fun a b hab hne => ?_⟩
  · rw [appendDrainRun_of_frame hf hc (by rw [hb, hsplit]; rfl) hd ha, hreset]
  · have hflat : s.buf ++ (cs ++ [c]).flatten = f := by
      rw [hb, List.flatten_append, List.flatten_singleton, hsplit, List.nil_append]
    obtain ⟨r, hrun⟩ := appendRun_of_fits (hflat ▸ validFrame_length_le hf)
    refine ⟨_, hrun, ?_⟩
    rw [hflat, ← hreset]
    exact exec_drain hd ha (drainAll_of_last_frame (g := []) List.not_mem_nil hf)
  · exact exec_drain_of_pending (s := { s with buf := a }) hd ha (headPending_of_frame_start hf hab hne)

/-- Settles O17: the window is the whole frame and fails DECODE, and no magic is left behind the one discarded. -/
theorem corruptedChecksumYieldsNothing : Obligations.CorruptedChecksumYieldsNothing := by
  intro f e x s hf hx hb hd ha
  have hstep : drainStep s.buf = .ok (.cont, s.buf.drop 1) := hb ▸ drainStep_set_checksum hf hx
  refine ⟨?_, exec_drainStep hd hstep, fun hclean => ?_⟩
  · exact exec_decode_frameError_iff.mpr (hb ▸ decodeFrame_set_checksum hf hx)
  · exact exec_drain hd ha ((drainAll_of_cont hstep).trans (drainAll_of_no_magic hclean))

/-- Settles O18, by the two lemmas on the frames a DRAIN finds in the buffer. -/
theorem drainEmitsFramesInOrder : Obligations.DrainEmitsFramesInOrder := by
  refine ⟨fun s t ha h => ?_, fun s gaps last hd ha hgaps hlast hb => ?_⟩
  · obtain ⟨-, es, m, hall, rfl⟩ := of_exec_drain ha h
    obtain ⟨gaps, last, rfl, hv, hm⟩ := framesInOrder_of_drainAll hall
    exact ⟨gaps, last, rfl, hv, hm⟩
  · exact exec_drain hd ha (hb ▸ drainAll_of_frames hgaps hlast)

/-- Settles O19: such a head is pending, and one that declares over 506 bytes is pending in every buffer of at most 512
bytes. -/
theorem stalledHeadHoldsDrain : Obligations.StalledHeadHoldsDrain := by
  intro k q lo hi rest s hd ha hb hlen
  have hpending {rest' : Bytes} (hn : ([0xA5#8, k, q, lo, hi] ++ rest').length < 6 + (lo.toNat + 256 * hi.toNat)) :
      HeadPending ([0xA5#8, k, q, lo, hi] ++ rest') := .inr ⟨rfl, .inr hn⟩
  refine ⟨fun hn => ?_, fun hover => ⟨by omega, fun c hc => ⟨fun hfits => ?_, fun hexceeds => ?_⟩⟩⟩
  · rw [hb] at hn
    have hp : HeadPending s.buf := hb ▸ hpending hn
    exact ⟨exec_drainStep_of_pending hd hp, exec_drain_of_pending hd ha hp⟩
  · have hbuf : s.buf ++ c = [0xA5#8, k, q, lo, hi] ++ (rest ++ c) := by rw [hb, List.append_assoc]
    have hp : HeadPending (s.buf ++ c) := by
      rw [hbuf]
      refine hpending ?_
      rw [← hbuf, List.length_append]
      omega
    exact ⟨_, exec_append_of_fits hfits, hbuf, exec_drain_of_pending hd ha hp⟩
  · exact ⟨_, exec_append_of_overflow hc hexceeds, rfl⟩

/-- Settles O20: the slices of twenty bytes up to the last one, and the last one with what remains. -/
theorem splitCutsTwentyByteChunks : Obligations.SplitCutsTwentyByteChunks := by
  intro f s hmin hmax
  obtain ⟨k, hk⟩ : ∃ k, (f.length + 19) / 20 = k + 1 := ⟨(f.length + 19) / 20 - 1, by omega⟩
  have hcut := splitFrame_eq_concat f hk
  have hlast := slice_length f k
  refine ⟨splitFrame f, completeIf_of_true _ _ _ (by simp [splitTakes, envLen, maxPayload, hmin, hmax]),
    splitFrame_flatten f, splitFrame_length f, fun c hc => ?_, slice f k, ?_, by omega, by omega, ?_⟩
  · rw [hcut, List.dropLast_concat] at hc
    obtain ⟨j, hj, rfl⟩ := List.mem_map.mp hc
    have hjk := List.mem_range.mp hj
    rw [slice_length]
    omega
  · rw [hcut, List.getLast?_concat]
  · rw [splitFrame_length]
    omega

end Sys2Proof.Machine
end

section
/-! PROOFS. The statements about the payload dispatcher (43_payload_dispatch.md): what each parser answers by the length
of its payload and the bytes at their offsets, which parser DISPATCH selects, and all that DISPATCH can answer. -/

namespace Sys2Proof.Machine

/-! ### What DISPATCH answers for any table -/

section
variable {e : Envelope} {s : State} {h : Header} {params : Params}

/-- DISPATCH completes on the Envelopes of rule R8 only, and then with the Parsed value of the Envelope (rule R155). -/
theorem exec_dispatch_iff {q : Parsed} :
    exec (.dispatch e) s = .next { s with response := .parsed q } ↔
      (e.len = e.payload.length ∧ e.len ≤ 256) ∧ dispatchPayload s.params e = q := by
  refine (completeIf_next_iff ..).trans (and_congr (by simp [envelopeWf]) ?_)
  simp [eq_comm]

theorem exec_dispatch (hlen : e.len = e.payload.length) (hcap : e.len ≤ 256) :
    exec (.dispatch e) s = .next { s with response := .parsed (dispatchPayload s.params e) } :=
  exec_dispatch_iff.mpr ⟨⟨hlen, hcap⟩, rfl⟩

/-- The rows of other kinds that stand before a matching row make no difference (rules R62, R141). -/
theorem shapeOf_of_first_exact {kind : Kind} {shape : Shape} {pre post : List DispatchRow}
    (ht : params.dispatchTable = pre ++ ⟨kind, .exact h, shape⟩ :: post) (hpre : ∀ r ∈ pre, r.kind ≠ kind) :
    shapeOf params kind h = shape := by
  have hskip : pre.find? (fun r => r.kind = kind && headerMatches params r.header h) = none :=
    List.find?_eq_none.mpr fun r hr => by simp [hpre r hr]
  rw [shapeOf, ht, List.find?_append, hskip, Option.none_or, List.find?_cons_of_pos (by simp [headerMatches])]

/-- A key that no row asks for selects no parser (rule R140). -/
theorem shapeOf_of_no_row {kind : Kind}
    (hno : ∀ r ∈ params.dispatchTable, r.kind ≠ kind ∨ ∃ k, r.header = .exact k ∧ h ≠ k) :
    shapeOf params kind h = .unrecognized := by
  have hnone : params.dispatchTable.find? (fun r => r.kind = kind && headerMatches params r.header h) = none := by
    refine List.find?_eq_none.mpr fun r hr => ?_
    obtain hkind | ⟨k, hk, hne⟩ := hno r hr
    · simp [hkind]
    · simp [hk, headerMatches, hne]
  rw [shapeOf, hnone]

end

theorem exists_eq_headerBytes_append {p : Bytes} {h : Header} (hh : headerOf p = some h) :
    ∃ body, p = headerBytes h ++ body :=
  ⟨_, eq_headerBytes_append hh⟩

/-! ### What each parser answers, by length and offset -/

section
variable (params : Params) (seq : Byte) (p : Bytes)

/-- Rule R143: the three tests in order, the readings at offsets 6 and 7. -/
theorem parseStatusCompact_eq :
    parseStatusCompact seq p =
      if p.length < 9 then .rejected .truncated .message seq p
      else if inTempRange (p.getD 6 0) && inTempRange (p.getD 7 0) then
        .status .compact
          { seq := seq, stage := p.getD 4 0, mode := p.getD 5 0, setpoint := p.getD 6 0, temperature := p.getD 7 0,
            heating := flagOfByte (p.getD 8 0), onBaseRaw := none, myTemp := none, babyFormula := none,
            holdRemaining := none, errorCode := none }
      else .rejected .range .message seq p := by
  match p with
  | [] | [_] | [_, _] | [_, _, _] | [_, _, _, _] | [_, _, _, _, _] | [_, _, _, _, _, _] | [_, _, _, _, _, _, _]
  | [_, _, _, _, _, _, _, _] => rfl
  | g :: c :: d :: r :: stage :: mode :: setpoint :: temperature :: flag :: rest =>
    have hlen : ¬ (g :: c :: d :: r :: stage :: mode :: setpoint :: temperature :: flag :: rest).length < 9 := by simp
    exact (if_neg hlen).symm

/-- Rule R146: the same for the richer layout, whose optional fields are read where the payload has a byte. -/
theorem parseStatusRich_eq :
    parseStatusRich params seq p =
      if p.length < 8 then .rejected .truncated .ack seq p
      else if inTempRange (p.getD 6 0) && inTempRange (p.getD 7 0) then
        .status .rich
          { seq := seq, stage := p.getD 4 0, mode := p.getD 5 0, setpoint := p.getD 6 0, temperature := p.getD 7 0,
            heating := richHeats params (p.getD 4 0), onBaseRaw := p[params.richLayout.onBase]?,
            myTemp := p[params.richLayout.myTemp]?, babyFormula := p[params.richLayout.babyFormula]?.map flagOfByte,
            holdRemaining := be16At p params.richLayout.holdRemaining, errorCode := p[params.richLayout.errorCode]? }
      else .rejected .range .ack seq p := by
  match p with
  | [] | [_] | [_, _] | [_, _, _] | [_, _, _, _] | [_, _, _, _, _] | [_, _, _, _, _, _] | [_, _, _, _, _, _, _] => rfl
  | g :: c :: d :: r :: stage :: mode :: setpoint :: temperature :: rest =>
    have hlen : ¬ (g :: c :: d :: r :: stage :: mode :: setpoint :: temperature :: rest).length < 8 := by simp
    exact (if_neg hlen).symm

/-- A one-byte optional field is present exactly when its byte lies inside the payload (rule R147). -/
theorem getElem?_eq_if_getD (n : Nat) : p[n]? = if p.length > n then some (p.getD n 0) else none := by
  by_cases hn : n < p.length <;> simp [hn]

/-- A two-byte optional field is present exactly when both its bytes lie inside the payload (rule R147). -/
theorem be16At_eq_if_getD (o : Nat) :
    be16At p o = if p.length > o + 1 then some (256 * (p.getD o 0).toNat + (p.getD (o + 1) 0).toNat) else none := by
  by_cases ho : o + 1 < p.length
  · have ho' : o < p.length := by omega
    simp [be16At, be16, ho, ho']
  · simp [be16At, ho]

/-- A record of the header and of the bytes after it (rule R150). -/
theorem parseAck_of_header {h : Header} (hh : headerOf p = some h) :
    parseAck seq p = .ackRecord { seq := seq, header := h, success := ackSuccess (p.drop 4), rest := p.drop 4 } := by
  simp only [parseAck, hh]

/-- The success flag as rule R151 words it. -/
theorem ackSuccess_eq (rest : Bytes) : ackSuccess rest = decide (rest = [] ∨ rest.head? = some 0x00#8) := by
  cases rest <;> simp [ackSuccess]

/-- The success flag as a byte that is zero where there is none. -/
theorem ackSuccess_drop (n : Nat) : ackSuccess (p.drop n) = decide (p.getD n 0 = 0x00#8) := by
  have hn : p.getD n 0 = (p.drop n).getD 0 0 := by simp
  rw [hn]
  cases p.drop n <;> rfl

end

/-! ### All that DISPATCH can answer -/

section
variable (params : Params) (shape : Shape) (kind : Kind) (seq : Byte) (p : Bytes)

/-- Both readings of a snapshot lie within 40 to 230 (rule R144). -/
def ReadingsInRange (snap : Snapshot) : Prop := inTempRange snap.setpoint ∧ inTempRange snap.temperature

/-- The kind that the parser of a shape writes in its REJECTED values; none when it rejects nothing (log 10). -/
def rejectedKind : Shape → Option Kind
  | .statusCompact | .completion => some .message
  | .statusRich => some .ack
  | .ackRecord | .unrecognized => none

/-- What a shape can give for a frame: a status with its readings in range (rule R142), an ack record, a completion,
UNRECOGNIZED with the frame's own fields (rule R153), or REJECTED with the frame's bytes and the parser's kind (rule
R154; log 10). -/
inductive ShapeAnswer (shape : Shape) (kind : Kind) (seq : Byte) (p : Bytes) : Parsed → Prop where
  | status {v : StatusVariant} {snap : Snapshot} (hr : ReadingsInRange snap) :
      ShapeAnswer shape kind seq p (.status v snap)
  | ackRecord {record : AckRecord} : ShapeAnswer shape kind seq p (.ackRecord record)
  | completion {status : CompletionStatus} : ShapeAnswer shape kind seq p (.completion seq status)
  | unrecognized : ShapeAnswer shape kind seq p (.unrecognized kind seq p)
  | rejected {why : RejectReason} {k : Kind} (hk : rejectedKind shape = some k) :
      ShapeAnswer shape kind seq p (.rejected why k seq p)

theorem shapeAnswer_parseStatusCompact : ShapeAnswer .statusCompact kind seq p (parseStatusCompact seq p) := by
  rw [parseStatusCompact_eq]
  split_ifs with hlen hr
  · exact .rejected rfl
  · exact .status (Bool.and_eq_true_iff.mp hr)
  · exact .rejected rfl

theorem shapeAnswer_parseStatusRich : ShapeAnswer .statusRich kind seq p (parseStatusRich params seq p) := by
  rw [parseStatusRich_eq]
  split_ifs with hlen hr
  · exact .rejected rfl
  · exact .status (Bool.and_eq_true_iff.mp hr)
  · exact .rejected rfl

theorem shapeAnswer_parseCompletion : ShapeAnswer .completion kind seq p (parseCompletion seq p) := by
  unfold parseCompletion
  split
  · exact .rejected rfl
  · split_ifs
    · exact .completion
    · exact .completion
    · exact .rejected rfl

/-- Every shape gives such an answer for a payload with a header. -/
theorem shapeAnswer_parseShape {h : Header} (hh : headerOf p = some h) :
    ShapeAnswer shape kind seq p (parseShape params shape kind seq p) := by
  cases shape with
  | statusCompact => exact shapeAnswer_parseStatusCompact kind seq p
  | statusRich => exact shapeAnswer_parseStatusRich params kind seq p
  | completion => exact shapeAnswer_parseCompletion kind seq p
  | ackRecord =>
    rw [parseShape, parseAck_of_header seq p hh]
    exact .ackRecord
  | unrecognized => exact .unrecognized

/-- With any table DISPATCH gives such an answer for the frame's own kind, sequence number and payload: unrecognized, or
of a shape the table selects. -/
theorem exists_shapeAnswer_dispatchPayload (e : Envelope) :
    ∃ shape, ShapeAnswer shape e.kind e.seq e.payload (dispatchPayload params e) ∧
      (shape = .unrecognized ∨ ∃ h, shape = shapeOf params e.kind h) := by
  cases hh : headerOf e.payload with
  | none =>
    rw [dispatchPayload_of_no_header hh]
    exact ⟨.unrecognized, .unrecognized, .inl rfl⟩
  | some h =>
    rw [dispatchPayload_of_header hh]
    exact ⟨_, shapeAnswer_parseShape params _ e.kind e.seq e.payload hh, .inr ⟨h, rfl⟩⟩

/-- The default table sends a parser only frames of the kind it writes in REJECTED (rules R62, R154). -/
theorem kind_of_rejectedKind_default (hd : params.dispatchTable = defaultDispatchTable) {h : Header} {k : Kind}
    (hk : rejectedKind (shapeOf params kind h) = some k) : k = kind := by
  cases kind with
  | message =>
    rw [shapeOf_default_message hd] at hk
    split_ifs at hk
    · exact (Option.some.inj hk).symm
    · exact (Option.some.inj hk).symm
    · cases hk
  | ack =>
    rw [shapeOf_default_ack hd] at hk
    split_ifs at hk
    · exact (Option.some.inj hk).symm
    · cases hk

end

/-! ### The statements -/

/-- Settles O21: a payload has a header or fewer than four bytes; for each kind the default table's rows are the keys of
the chain, and the parser it selects completes on a payload that is its own. -/
theorem dispatchSelectsParser : Obligations.DispatchSelectsParser := by
  rintro ⟨kind, seq, len, checksum, payload⟩ s hlen hcap hd
  rw [exec_dispatch hlen hcap]
  cases hh : headerOf payload with
  | none => rw [dispatchPayload_of_no_header hh, if_pos (headerOf_eq_none_iff.mp hh)]
  | some h =>
    obtain ⟨hfour, htake⟩ := headerOf_eq_some_iff.mp hh
    rw [dispatchPayload_of_header (e := ⟨kind, seq, len, checksum, payload⟩) hh]
    obtain ⟨body, rfl⟩ := exists_eq_headerBytes_append hh
    have hcompact : [0x01#8, 0x41#8, 0x40#8, 0x00#8] = headerBytes hdrStatusCompact := rfl
    have hcompletion : [0x01#8, 0xF7#8, 0xA3#8, 0x00#8] = headerBytes hdrCompletion := rfl
    simp only [if_neg hfour.not_gt, htake, hcompact, hcompletion, headerBytes_inj]
    cases kind with
    | message =>
      by_cases h₁ : h = hdrStatusCompact
      · subst h₁
        simp [shapeOf_default_message hd, parseShape, exec_parseStatusCompact_of_header]
      · by_cases h₂ : h = hdrCompletion
        · subst h₂
          simp [shapeOf_default_message hd, parseShape, exec_parseCompletion_of_header, h₁]
        · simp [shapeOf_default_message hd, parseShape, h₁, h₂]
    | ack =>
      by_cases h₁ : h = s.params.hdrStatusRich
      · subst h₁
        simp [shapeOf_default_ack hd, parseShape, exec_parseStatusRich_of_header]
      · simp [shapeOf_default_ack hd, parseShape, exec_parseAck_of_header seq body s h₁, h₁]

/-- Settles O22: the value is what the Envelope and the parameters give; DISPATCH reads nothing else. -/
theorem dispatchIsTotal : Obligations.DispatchIsTotal := by
  intro e p hlen hcap
  refine ⟨dispatchPayload p e, ?_⟩
  rintro s rfl
  exact exec_dispatch hlen hcap

/-- Settles O23: a first row for exactly the key selects its shape, and a key that no row asks for selects none. -/
theorem dispatchFollowsTable : Obligations.DispatchFollowsTable := by
  intro e s h pre post hlen hcap htake hfour
  have hh := headerOf_eq_some_iff.mpr ⟨hfour, htake⟩
  rw [exec_dispatch hlen hcap, dispatchPayload_of_header hh]
  refine ⟨fun ht hpre => ?_, fun hno => ?_⟩
  · rw [shapeOf_of_first_exact ht hpre, parseShape, parseAck_of_header e.seq e.payload hh, ackSuccess_drop]
  · simp only [htake, ne_eq, headerBytes_inj] at hno
    rw [shapeOf_of_no_row hno, parseShape]

/-- Settles O24: the parser's chain of tests with the body's offsets counted from the header's end. -/
theorem parseStatusCompactResult : Obligations.ParseStatusCompactResult := by
  intro seq body s
  refine (exec_parseStatusCompact_of_header seq body s).trans ?_
  rw [parseStatusCompact_eq, inTempRange_pair]
  simp only [decide_eq_true_eq, ite_not, List.length_append]
  rfl

/-- Settles O25: the parser's chain of tests, each optional field by its own length test. -/
theorem parseStatusRichResult : Obligations.ParseStatusRichResult := by
  intro seq p s hfour htake
  obtain ⟨body, rfl⟩ := exists_eq_headerBytes_append (headerOf_eq_some_iff.mpr ⟨hfour, htake⟩)
  refine (exec_parseStatusRich_of_header seq body s).trans ?_
  rw [parseStatusRich_eq, inTempRange_pair]
  simp only [decide_eq_true_eq, ite_not, getElem?_eq_if_getD, be16At_eq_if_getD, apply_ite (Option.map flagOfByte)]
  rfl

/-- Settles O26: a payload with another header is PARSE_ACK's own, and the flag is the one of rule R151. -/
theorem parseAckResult : Obligations.ParseAckResult := by
  intro seq h rest s hne
  rw [exec_parseAck_of_header seq rest s hne, parseAck_of_header seq _ (headerOf_headerBytes h rest), ackSuccess_eq]
  rfl

/-- Settles O27: the status byte is absent or the first of the body; the two codes give their completion. -/
theorem parseCompletionResult : Obligations.ParseCompletionResult := by
  intro seq body s
  refine (exec_parseCompletion_of_header seq body s).trans ?_
  cases body with
  | nil => rfl
  | cons b rest =>
    have hlen : ¬ 4 + (b :: rest).length < 5 := by
      rw [List.length_cons]
      omega
    rw [if_neg hlen]
    rfl

/-- Settles O28: a status is among the answers of a shape only with its readings in range. -/
theorem statusReadingsInRange : Obligations.StatusReadingsInRange := by
  intro e s v snap hexec
  obtain ⟨-, hq⟩ := exec_dispatch_iff.mp hexec
  obtain ⟨shape, hans, -⟩ := exists_shapeAnswer_dispatchPayload s.params e
  rw [hq] at hans
  cases hans with
  | status hr => simpa [ReadingsInRange, inTempRange, and_assoc] using hr

/-- Settles O29: both failure values are among the answers of a shape only with the frame's sequence number and payload;
UNRECOGNIZED has the frame's kind, REJECTED the parser's, which with the default table is the frame's. -/
theorem failureValuesCarryRawBytes : Obligations.FailureValuesCarryRawBytes := by
  intro e s k q p
  obtain ⟨shape, hans, hshape⟩ := exists_shapeAnswer_dispatchPayload s.params e
  refine ⟨fun hexec => ?_, fun hd why hexec => ?_⟩
  · obtain ⟨-, hq⟩ := exec_dispatch_iff.mp hexec
    rw [hq] at hans
    cases hans with
    | unrecognized => exact ⟨rfl, rfl, rfl⟩
  · obtain ⟨-, hq⟩ := exec_dispatch_iff.mp hexec
    rw [hq] at hans
    cases hans with
    | rejected hk =>
      obtain rfl | ⟨h, rfl⟩ := hshape
      · cases hk
      · exact ⟨kind_of_rejectedKind_default s.params e.kind hd hk, rfl, rfl⟩

end Sys2Proof.Machine
end

section
/-! PROOFS. The statements about the command payload bodies (44_command_payloads.md): the bytes each encoder writes, the
fields each decoder reads, and that a decoder reads back the operands of its encoder. -/

namespace Sys2Proof.Machine

/-! ### The delayed-start body is the start-heating body with two bytes put in front -/

/-- The fields of a delayed-start body: a delay, and those of the start-heating body after it (rule R175). -/
def delayedBy (delaySeconds : Nat) (b : StartHeatBody) : DelayedStartBody :=
  ⟨delaySeconds, b.mode, b.holdEnable, b.holdSeconds⟩

theorem readDelayedStartBody_cons_cons (d0 d1 : Byte) (b : Bytes) :
    readDelayedStartBody (d0 :: d1 :: b) = (readStartHeatBody b).map (delayedBy (be16 d0 d1)) := by
  match b with
  | [] | [_] | [_, _] | [_, _, _] | [_, _, _, _] => rfl
  | _ :: _ :: _ :: _ :: _ :: _ => rfl

/-- DEC_DELAYED_START_BODY by length and offsets (rule R177). -/
theorem readDelayedStartBody_eq (b : Bytes) :
    readDelayedStartBody b = if b.length < 7 then none else some
      { delaySeconds := 256 * (b.getD 0 0).toNat + (b.getD 1 0).toNat,
        mode := (b.getD 2 0).toNat + 256 * (b.getD 3 0).toNat, holdEnable := b.getD 4 0 ≠ 0x00#8,
        holdSeconds := 256 * (b.getD 5 0).toNat + (b.getD 6 0).toNat } := by
  match b with
  | [] | [_] => rfl
  | d0 :: d1 :: body =>
    have hlen : (d0 :: d1 :: body).length < 7 ↔ body.length < 5 := by
      simp only [List.length_cons]
      omega
    rw [readDelayedStartBody_cons_cons, readStartHeatBody_eq, apply_ite (Option.map _)]
    simp only [hlen]
    rfl

/-- The body that ENC_DELAYED_START_BODY writes is read back by DEC_DELAYED_START_BODY (rule R178). -/
theorem readDelayedStartBody_delayedStartBodyBytes {d m h : Nat} (e : Bool) (hd : d ≤ 65535) (hm : m ≤ 65535)
    (hh : h ≤ 65535) : readDelayedStartBody (delayedStartBodyBytes d m e h) = some ⟨d, m, e, h⟩ := by
  change readDelayedStartBody (hiByte d :: loByte d :: startHeatBodyBytes m e h) = _
  rw [readDelayedStartBody_cons_cons, readStartHeatBody_startHeatBodyBytes e hm hh, be16_bytes d hd]
  rfl

/-! ### What the operations answer -/

theorem exec_decStartHeatBody (b : Bytes) (s : State) :
    exec (.decStartHeatBody b) s
      = .next { s with response := (readStartHeatBody b).elim .truncated .startHeatBody } := by
  change execDecStartHeatBody b s = _
  rw [execDecStartHeatBody]
  cases readStartHeatBody b <;> rfl

theorem exec_decDelayedStartBody (b : Bytes) (s : State) :
    exec (.decDelayedStartBody b) s
      = .next { s with response := (readDelayedStartBody b).elim .truncated .delayedStartBody } := by
  change execDecDelayedStartBody b s = _
  rw [execDecDelayedStartBody]
  cases readDelayedStartBody b <;> rfl

section
variable {d m h t : Nat} {e : Bool} {s : State}

theorem exec_encDelayedStartBody (hd : d ≤ 65535) (hm : m ≤ 65535) (hh : h ≤ 65535) :
    exec (.encDelayedStartBody d m e h) s = .next { s with response := .bytes (delayedStartBodyBytes d m e h) } :=
  completeIf_of_true _ _ .operandOutOfRange (by simp [inWordRange, hd, hm, hh])

theorem exec_encSetMyTemp (ht : t ≤ 255) :
    exec (.encSetMyTemp t) s = .next { s with response := .bytes (headerBytes hdrSetMyTemp ++ [loByte t]) } :=
  completeIf_of_true _ _ .operandOutOfRange (decide_eq_true ht)

end

/-! ### The statements -/

/-- Settles O30: the payload is the header alone. -/
theorem encStatusReqResult : Obligations.EncStatusReqResult :=
  fun _ => rfl

/-- Settles O31: inside the domain the answer is the header and the body, written out byte by byte. -/
theorem encStartHeatResult : Obligations.EncStartHeatResult :=
  fun _ _ _ _ hm hh => exec_encStartHeat hm hh

/-- Settles O32: the operation answers the fields that stand at their offsets. -/
theorem decStartHeatBodyResult : Obligations.DecStartHeatBodyResult := by
  intro b s
  rw [exec_decStartHeatBody, readStartHeatBody_eq, apply_ite (Option.elim · _ _)]
  rfl

/-- Settles O33: what follows the four header bytes is the body, which is read back. -/
theorem startHeatRoundTrip : Obligations.StartHeatRoundTrip := by
  intro m h e s hm hh
  refine ⟨startHeatPayload m e h, exec_encStartHeat hm hh, ?_⟩
  have hbody : (startHeatPayload m e h).drop 4 = startHeatBodyBytes m e h := rfl
  rw [hbody, exec_decStartHeatBody, readStartHeatBody_startHeatBodyBytes e hm hh]
  rfl

/-- Settles O34: inside the domain the answer is the body alone, written out byte by byte. -/
theorem encDelayedStartResult : Obligations.EncDelayedStartResult :=
  fun _ _ _ _ _ hd hm hh => exec_encDelayedStartBody hd hm hh

/-- Settles O35: the operation answers the fields that stand at their offsets. -/
theorem decDelayedStartBodyResult : Obligations.DecDelayedStartBodyResult := by
  intro b s
  rw [exec_decDelayedStartBody, readDelayedStartBody_eq, apply_ite (Option.elim · _ _)]
  rfl

/-- Settles O36: the body is read back. -/
theorem delayedStartRoundTrip : Obligations.DelayedStartRoundTrip := by
  intro d m h e s hd hm hh
  refine ⟨delayedStartBodyBytes d m e h, exec_encDelayedStartBody hd hm hh, ?_⟩
  rw [exec_decDelayedStartBody, readDelayedStartBody_delayedStartBodyBytes e hd hm hh]
  rfl

/-- Settles O37: the domain is every byte value, and the low byte of such a number is the number. -/
theorem encSetMyTempResult : Obligations.EncSetMyTempResult := by
  intro t s ht
  rw [exec_encSetMyTemp ht, loByte, Nat.mod_eq_of_lt (Nat.lt_succ_of_le ht)]
  rfl

end Sys2Proof.Machine
end

section
/-! PROOFS. The statements about operands outside a domain and about requests that complete (60_exceptions.md): what is
refused, that everything in its domain completes, and that the block rests between operations. -/

namespace Sys2Proof.Machine

/-! ### Operands outside a domain -/

section
variable {p : Bytes} {h : Header} {v : Nat}

theorem inWordRange_eq_false_iff : inWordRange v = false ↔ 65535 < v := by
  simp [inWordRange]

/-- A payload of fewer than four bytes, or with another header, is not the parser's. -/
theorem hasHeader_eq_false (hp : p.length < 4 ∨ p.take 4 ≠ headerBytes h) : hasHeader p h = false := by
  refine decide_eq_false fun hh => ?_
  obtain ⟨hlen, htake⟩ := headerOf_eq_some_iff.mp hh
  obtain hshort | hne := hp
  · exact hshort.not_ge hlen
  · exact hne htake

/-- PARSE_ACK takes neither a payload without a header nor a rich status (rule R150). -/
theorem ackParserTakes_eq_false (hp : p.length < 4 ∨ p.take 4 = headerBytes h) : ackParserTakes h p = false := by
  cases hh : headerOf p with
  | none => simp only [ackParserTakes, hh]
  | some k =>
    obtain ⟨hlen, htake⟩ := headerOf_eq_some_iff.mp hh
    have hrich := hp.resolve_left hlen.not_gt
    have hk : k = h := headerBytes_inj.mp (htake.symm.trans hrich)
    simp [ackParserTakes, hh, hk]

end

/-! ### Operands in their domain -/

section
variable {i : Instr} {s : State}

/-- DRAIN completes when no DRAIN is in progress: all of it, or its first step (rules R38, R114). -/
theorem exists_exec_drain_eq_next (hd : s.draining = none) : ∃ t, exec .drain s = .next t := by
  cases ha : s.params.drainAtomic with
  | true =>
    obtain ⟨es, m, -, h⟩ := execDrain_atomic s hd ha
    exact ⟨_, h⟩
  | false =>
    obtain ⟨r, m, -, h⟩ := drainAdvance_cases [] s
    exact ⟨_, (execDrain_nonatomic s hd ha).trans h⟩

/-- A well-formed request completes: its well-formedness is the test on which its operation would refuse it, and the
reads of a DRAIN_STEP stay within BUF. -/
theorem exists_exec_eq_next (hw : wellFormed s.params i = true) (hd : isDrainer i = true → s.draining = none) :
    ∃ t, exec i s = .next t := by
  cases i
  case append => exact ⟨_, exec_append (of_decide_eq_true hw)⟩
  case drainStep =>
    obtain ⟨r, m, -, h⟩ := execDrainStep_cases s (hd rfl)
    exact ⟨_, h⟩
  case drain => exact exists_exec_drain_eq_next (hd rfl)
  case frameCk | encode | split | dispatch | parseStatusCompact | parseStatusRich | parseAck | parseCompletion |
      encStartHeat | encDelayedStartBody | encSetMyTemp => exact ⟨_, completeIf_of_true _ _ _ hw⟩
  all_goals exact ⟨_, rfl⟩

end

/-! ### An idle moment -/

section
variable {s : State}

theorem nextRequest_of_port_nil (hp : s.port = []) : nextRequest s = .idle := by
  rw [nextRequest, hp]

theorem step_of_fetch_idle (h : fetch s = .idle) : step s = .next s := by
  rw [step, h]

end

/-! ### The statements -/

/-- Settles O38: on the operands the statement names, the operation's own domain test is false. -/
theorem outOfDomainIsRefused : Obligations.OutOfDomainIsRefused := by
  intro s
  refine ⟨fun k q p hp => ?encode, fun c hc => ?append, fun f hf => ?frameCk, fun q p hp => ?statusCompact,
    fun q p hp => ?statusRich, fun q p hp => ?ack, fun q p hp => ?completion, fun m e h hr => ?startHeat,
    fun d m e h hr => ?delayedStart, fun t ht => ?setMyTemp⟩
  case append => exact if_neg hc.not_ge
  all_goals refine completeIf_of_false _ _ _ ?_
  case encode => exact decide_eq_false hp.not_ge
  case frameCk => exact decide_eq_false hf.not_ge
  case statusCompact | statusRich | completion => exact hasHeader_eq_false hp
  case ack => exact ackParserTakes_eq_false hp
  case startHeat => simpa only [Bool.and_eq_false_iff, inWordRange_eq_false_iff] using hr
  case delayedStart => simpa only [Bool.and_eq_false_iff, inWordRange_eq_false_iff, or_assoc] using hr
  case setMyTemp => exact decide_eq_false ht.not_ge

/-- Settles O60: a well-formed request completes, and a completed request writes no other part of the state. -/
theorem wellFormedRequestsComplete : Obligations.WellFormedRequestsComplete := by
  intro i s hw hd
  obtain ⟨t, h⟩ := exists_exec_eq_next hw hd
  exact ⟨t, h, (requestEffect_of_exec h).frame⟩

/-- Settles O50: with no DRAIN in progress the fetch looks at the port, and the port is empty. -/
theorem idleStepHoldsState : Obligations.IdleStepHoldsState :=
  fun _ hd hp => step_of_fetch_idle ((fetch_of_not_draining hd).trans (nextRequest_of_port_nil hp))

end Sys2Proof.Machine
end

section
/-! PROOFS. The statements about reset and hazards (70_reset_and_hazards.md): what reset empties, that only the buffer
operations see more of the state than the parameters, and the refusals beyond the list of rule R196. -/

namespace Sys2Proof.Machine

/-! ### What a request that does not touch BUF can see of the state -/

/-- How a request that ends without touching BUF ends alike in two states: it completes with one value, or it is refused
for one reason. -/
inductive SameAnswer (s s' : State) : Result → Result → Prop where
  | completes (r : Response) : SameAnswer s s' (complete s r) (complete s' r)
  | refuses (why : Refusal) : SameAnswer s s' (.refused why) (.refused why)

section
variable {s s' : State} {x x' : Result}

theorem sameAnswer_completeIf (d : Bool) (why : Refusal) (r : Response) :
    SameAnswer s s' (completeIf d why s r) (completeIf d why s' r) := by
  cases d with
  | true => exact .completes r
  | false => exact .refuses why

/-- Such a request reads nothing of the state but the parameters (rules R10, R34): its condition and its value are the
same terms in two states that agree on them. -/
theorem sameAnswer_exec {i : Instr} (hi : touchesBuffer i = false) (hp : s.params = s'.params) :
    SameAnswer s s' (exec i s) (exec i s') := by
  obtain ⟨buf, params, port, response, draining, sched⟩ := s
  obtain ⟨buf', params', port', response', draining', sched'⟩ := s'
  obtain rfl : params = params' := hp
  cases i
  case clear | append | drainStep | drain => cases hi
  case frameCk | encode | split | dispatch | parseStatusCompact | parseStatusRich | parseAck | parseCompletion |
      encStartHeat | encDelayedStartBody | encSetMyTemp => exact sameAnswer_completeIf _ _ _
  all_goals exact .completes _

namespace SameAnswer

theorem eq_next_iff (h : SameAnswer s s' x x') (r : Response) :
    x = .next { s with response := r } ↔ x' = .next { s' with response := r } := by
  cases h with
  | completes => exact next_response_inj.trans next_response_inj.symm
  | refuses => exact iff_of_false nofun nofun

theorem eq_refused_iff (h : SameAnswer s s' x x') (why : Refusal) : x = .refused why ↔ x' = .refused why := by
  cases h with
  | completes => exact iff_of_false nofun nofun
  | refuses => rfl

end SameAnswer

end

/-! ### Operands outside a domain, beyond the list of rule R196 -/

section
variable {f : Bytes} {e : Envelope} {s : State} {out : List Envelope}

theorem splitTakes_eq_false_iff : splitTakes f = false ↔ f.length < 6 ∨ 262 < f.length := by
  simp [splitTakes, imp_iff_not_or, envLen, maxPayload]

theorem envelopeWf_eq_false_iff : envelopeWf e = false ↔ e.len ≠ e.payload.length ∨ 256 < e.len := by
  simp [envelopeWf, imp_iff_not_or]

theorem execDrain_of_draining (hd : s.draining = some out) : execDrain s = .refused .drainInProgress := by
  rw [execDrain, hd]

theorem execDrainStep_of_draining (hd : s.draining = some out) : execDrainStep s = .refused .drainInProgress := by
  rw [execDrainStep, hd]

end

/-! ### The statements -/

/-- Settles O57: the request ends alike in the two states. -/
theorem pureRequestsReadNoState : Obligations.PureRequestsReadNoState := by
  intro i s s' hi hp
  have h := sameAnswer_exec hi hp
  exact ⟨h.eq_next_iff, h.eq_refused_iff⟩

/-- Settles O39: the operand fails its operation's own domain test, and both drainers look for a DRAIN in progress
first. -/
theorem modelledDomainsRefuse : Obligations.ModelledDomainsRefuse := fun _ =>
  ⟨fun _ hf => completeIf_of_false _ _ _ (splitTakes_eq_false_iff.mpr hf),
    fun _ he => completeIf_of_false _ _ _ (envelopeWf_eq_false_iff.mpr he),
    fun _ hd => ⟨execDrain_of_draining hd, execDrainStep_of_draining hd⟩⟩

/-- Settles O51: BUF is the empty list at reset, after CLEAR and on a new connection, and the empty list has no element
at any address. -/
theorem resetEmptiesBuffer : Obligations.ResetEmptiesBuffer :=
  ⟨rfl, fun _ => List.getElem?_nil,
    fun s => ⟨⟨_, exec_clear, rfl⟩, newConnection_buf s, newConnection_params s⟩⟩

end Sys2Proof.Machine
end
